-- ==== Sys2Proof/Word.lean ====
section
/-! DEFINITION. The word types of the CH552-USB-OLED Life engine and the two one-bit operands that are names rather
than numbers (R9, R25, R72). -/

namespace Sys2Proof

/-- A framebuffer byte, a payload byte or a frame byte: 8 bits (R9). -/
abbrev Byte := BitVec 8

/-- A command word, the status word or the fault word: 32 bits (R9, R70). -/
abbrev Word := BitVec 32

/-- The role operand R (R15, R25): 0 names the current buffer and 1 names the next buffer. -/
inductive Role where
  | cur
  | nxt
deriving DecidableEq, Repr

/-- The bit of the command word that stands for a role (R71). -/
def Role.bit : Role → BitVec 1
  | .cur => 0#1
  | .nxt => 1#1

/-- The role that bit R of a command word names (R71). -/
def Role.ofBit (b : Bool) : Role := if b then .nxt else .cur

/-- The register selector S of RDSTAT (R72): 0 selects STATUS and 1 selects FAULTWORD. -/
inductive StatSel where
  | status
  | fault
deriving DecidableEq, Repr

/-- The bit of the command word that stands for a register selector (R72). -/
def StatSel.bit : StatSel → BitVec 1
  | .status => 0#1
  | .fault => 1#1

/-- The register that bit S of an RDSTAT word selects (R72). -/
def StatSel.ofBit (b : Bool) : StatSel := if b then .fault else .status

end Sys2Proof
end

