-- ==== Sys2Proof/Syntax.lean ====
section
/-! DEFINITION. The operations of the block, one constructor for each row of spec/opcode_table.json (R76). -/

namespace Sys2Proof

/-- The operations of the block with their operands (R70 to R73, R76). X and Y are kept as the two's complement fields of
the command word (R71). The operands LEN and payload of the format L operations are one list of bytes, whose length is
LEN (R73, R81). -/
inductive Instr where
  /-- GET R, X, Y (R100). -/
  | get (r : Role) (x : BitVec 9) (y : BitVec 8)
  /-- SET R, X, Y (R102). -/
  | set (r : Role) (x : BitVec 9) (y : BitVec 8)
  /-- CLEAR R (R104). -/
  | clear (r : Role)
  /-- RDBYTES R (R105). -/
  | rdbytes (r : Role)
  /-- LDSEED LEN, payload (R106). -/
  | ldseed (payload : List Byte)
  /-- STEP (R140). -/
  | step
  /-- SWAP (R150). -/
  | swap
  /-- SENDF (R171). -/
  | sendf
  /-- SENDC LEN, payload (R180). -/
  | sendc (payload : List Byte)
  /-- SENDINIT (R182). -/
  | sendinit
  /-- RDSTAT S (R200). -/
  | rdstat (sel : StatSel)
deriving DecidableEq, Repr

/-- The bytes an operation takes from the payload channel: none but for format L (R73). -/
def Instr.payload : Instr → List Byte
  | .get _ _ _ => []
  | .set _ _ _ => []
  | .clear _ => []
  | .rdbytes _ => []
  | .ldseed p => p
  | .step => []
  | .swap => []
  | .sendf => []
  | .sendc p => p
  | .sendinit => []
  | .rdstat _ => []

end Sys2Proof
end

