-- ==== Sys2Proof/WellFormed.lean ====
section
/-! DEFINITION. Which operations a command word can express: the payload of a format L operation has at most 2047 bytes,
since LEN is an 11-bit field (R73, R82). Every other operand fits its field by its type. -/

namespace Sys2Proof

/-- LEN is an unsigned 11-bit field (R73). -/
def lenFits (payload : List Byte) : Bool := decide (payload.length < 2 ^ 11)

/-- The operations that some command word with its payload encodes (R73, R82). -/
def Instr.wellFormed : Instr → Bool
  | .get _ _ _ => true
  | .set _ _ _ => true
  | .clear _ => true
  | .rdbytes _ => true
  | .ldseed p => lenFits p
  | .step => true
  | .swap => true
  | .sendf => true
  | .sendc p => lenFits p
  | .sendinit => true
  | .rdstat _ => true

end Sys2Proof
end

