-- ==== Sys2Proof/Decode.lean ====
section
/-! DEFINITION. Decoding a command word with its payload (R70 to R81), and the encoder beside it (R76, R82). -/

namespace Sys2Proof

/-- The four formats of a command word (R70). -/
inductive Format where
  | C
  | B
  | N
  | L
deriving DecidableEq, Repr

/-- The legal operation codes, by the mnemonics of R76. -/
inductive Opcode where
  | GET
  | SET
  | CLEAR
  | RDBYTES
  | LDSEED
  | STEP
  | SWAP
  | SENDF
  | SENDC
  | SENDINIT
  | RDSTAT
deriving DecidableEq, Repr

/-- Why a command record decodes to no operation. -/
inductive DecodeError where
  /-- The payload is not the LEN bytes the word asks for (R81): the block has no step. -/
  | payloadLength
  /-- The operation code is 0x0 or 0xC to 0xF (R77). -/
  | illegalOpcode
  /-- A must-be-zero bit of the format is 1 (R78). -/
  | reservedBits
deriving DecidableEq, Repr

/-- OP = w[31:28] (R70). -/
def opField (w : Word) : BitVec 4 := w.extractLsb' 28 4

/-- R (or S) = w[27] (R71, R72). -/
def selField (w : Word) : Bool := w.getLsbD 27

/-- The 9 bits of X = w[26:18] (R71). -/
def xField (w : Word) : BitVec 9 := w.extractLsb' 18 9

/-- The 8 bits of Y = w[17:10] (R71). -/
def yField (w : Word) : BitVec 8 := w.extractLsb' 10 8

/-- The 11 bits of LEN = w[10:0] (R73). -/
def lenField (w : Word) : BitVec 11 := w.extractLsb' 0 11

/-- The opcode map of R76; `none` for the codes R77 calls illegal. -/
def opcodeOf (op : BitVec 4) : Option Opcode :=
  match op.toNat with
  | 0x1 => some .GET
  | 0x2 => some .SET
  | 0x3 => some .CLEAR
  | 0x4 => some .RDBYTES
  | 0x5 => some .LDSEED
  | 0x6 => some .STEP
  | 0x7 => some .SWAP
  | 0x8 => some .SENDF
  | 0x9 => some .SENDC
  | 0xA => some .SENDINIT
  | 0xB => some .RDSTAT
  | _ => none

/-- FORMAT[OP], the format column of R76. -/
def Opcode.format : Opcode → Format
  | .GET => .C
  | .SET => .C
  | .CLEAR => .B
  | .RDBYTES => .B
  | .LDSEED => .L
  | .STEP => .N
  | .SWAP => .N
  | .SENDF => .N
  | .SENDC => .L
  | .SENDINIT => .N
  | .RDSTAT => .B

/-- RESERVED_MASK[fmt], the must-be-zero bits of a format (R78). -/
def Format.reservedMask : Format → Word
  | .C => 0x000003FF#32
  | .B => 0x07FFFFFF#32
  | .N => 0x0FFFFFFF#32
  | .L => 0x0FFFF800#32

/-- How many payload bytes follow a command word. R73: the length of a command is known from OP and LEN alone. -/
def payloadLen (w : Word) : Nat :=
  match opcodeOf (opField w) with
  | some .LDSEED => (lenField w).toNat
  | some .SENDC => (lenField w).toNat
  | _ => 0

/-- The operation a legal word stands for, its operands taken from their fields (R71 to R73). -/
def operation (o : Opcode) (w : Word) (payload : List Byte) : Instr :=
  match o with
  | .GET => .get (Role.ofBit (selField w)) (xField w) (yField w)
  | .SET => .set (Role.ofBit (selField w)) (xField w) (yField w)
  | .CLEAR => .clear (Role.ofBit (selField w))
  | .RDBYTES => .rdbytes (Role.ofBit (selField w))
  | .LDSEED => .ldseed payload
  | .STEP => .step
  | .SWAP => .swap
  | .SENDF => .sendf
  | .SENDC => .sendc payload
  | .SENDINIT => .sendinit
  | .RDSTAT => .rdstat (StatSel.ofBit (selField w))

/-- R75, with the payload of a format L word at hand. Whether the LEN payload bytes are there is settled first: without
them the block has no step (R80, R81). DEDUCED, log entry 6. -/
def decode (w : Word) (payload : List Byte) : Except DecodeError Instr :=
  if payload.length ≠ payloadLen w then .error .payloadLength
  else
    match opcodeOf (opField w) with
    | none => .error .illegalOpcode
    | some o =>
      if w &&& o.format.reservedMask ≠ 0#32 then .error .reservedBits
      else .ok (operation o w payload)

/-- The opcode of an operation (R76). -/
def Instr.opcode : Instr → Opcode
  | .get _ _ _ => .GET
  | .set _ _ _ => .SET
  | .clear _ => .CLEAR
  | .rdbytes _ => .RDBYTES
  | .ldseed _ => .LDSEED
  | .step => .STEP
  | .swap => .SWAP
  | .sendf => .SENDF
  | .sendc _ => .SENDC
  | .sendinit => .SENDINIT
  | .rdstat _ => .RDSTAT

/-- The operation code of an opcode: the OP column of R76. -/
def Opcode.code : Opcode → BitVec 4
  | .GET => 0x1#4
  | .SET => 0x2#4
  | .CLEAR => 0x3#4
  | .RDBYTES => 0x4#4
  | .LDSEED => 0x5#4
  | .STEP => 0x6#4
  | .SWAP => 0x7#4
  | .SENDF => 0x8#4
  | .SENDC => 0x9#4
  | .SENDINIT => 0xA#4
  | .RDSTAT => 0xB#4

/-- A format C word (R70, R71). -/
def wordC (o : Opcode) (r : Role) (x : BitVec 9) (y : BitVec 8) : Word := o.code ++ r.bit ++ x ++ y ++ 0#10

/-- A format B word (R70, R72). -/
def wordB (o : Opcode) (sel : BitVec 1) : Word := o.code ++ sel ++ 0#27

/-- A format N word (R70, R72). -/
def wordN (o : Opcode) : Word := o.code ++ 0#28

/-- A format L word, LEN being the number of payload bytes (R70, R73, R82). -/
def wordL (o : Opcode) (payload : List Byte) : Word := o.code ++ 0#17 ++ BitVec.ofNat 11 payload.length

/-- The command word of an operation (R76, R82); its payload bytes are `Instr.payload`. -/
def encode : Instr → Word
  | .get r x y => wordC .GET r x y
  | .set r x y => wordC .SET r x y
  | .clear r => wordB .CLEAR r.bit
  | .rdbytes r => wordB .RDBYTES r.bit
  | .ldseed p => wordL .LDSEED p
  | .step => wordN .STEP
  | .swap => wordN .SWAP
  | .sendf => wordN .SENDF
  | .sendc p => wordL .SENDC p
  | .sendinit => wordN .SENDINIT
  | .rdstat s => wordB .RDSTAT s.bit

/-- The word part of an instruction given as one number: the command word is its bits 31..0. -/
def tableWord (nbits w : Nat) : Word := BitVec.ofNat 32 (w % 2 ^ nbits)

/-- The payload part of an instruction given as one number: payload byte k is its bits 39+8k..32+8k, and there are as many
as the word asks for (R73). With `nbits` at most 32 they are all zero. -/
def tablePayload (nbits w : Nat) : List Byte :=
  (List.range (payloadLen (tableWord nbits w))).map fun k => BitVec.ofNat 8 ((w % 2 ^ nbits) >>> (32 + 8 * k))

/-- The operation the decoder reads from an instruction of `nbits` bits given as one number, as spec/opcode_table.json
numbers bits; every bit above `nbits` is 0. -/
def decodeTableWord (nbits w : Nat) : Option Instr :=
  match decode (tableWord nbits w) (tablePayload nbits w) with
  | .ok i => some i
  | .error _ => none

end Sys2Proof
end

