-- ==== Sys2Proof/Config.lean ====
section
/-! DEFINITION. The configuration of the block (R8, R39): what is fixed for one machine and is a parameter of its step.
The fixed numbers of R7 are in Machine/Params.lean. The seed (R8) arrives as the payload of LDSEED. The settle interval and
the transport's timeout (R8) have no effect on values and are not modelled (log entry 11). The draws of R175 and R251 are
inputs, carried by the pending inputs of the state (log entries 2 and 10). -/

namespace Sys2Proof

/-- The configuration parameters of the block that a rule reads. -/
structure Config where
  /-- P_SWAP_NEEDS_SEND (R8, R151): whether SWAP also requires a SENDF with result OK. -/
  swapNeedsSend : Bool
deriving DecidableEq, Repr

/-- The default configuration: R8 gives P_SWAP_NEEDS_SEND the default true. -/
def Config.standard : Config := { swapNeedsSend := true }

end Sys2Proof
end

