-- ==== Sys2Proof/Machine/Params.lean ====
section
/-! DEFINITION. The fixed parameters of R7, each a named constant (R7, D36; log entry 16). -/

namespace Sys2Proof.Machine

/-- W, the width of the grid in cells (R7). -/
def W : Nat := 128

/-- H, the height of the grid in cells (R7). -/
def H : Nat := 64

/-- PAGES = H/8 (R7). -/
def PAGES : Nat := 8

/-- FB_BYTES = PAGES*W, the bytes of a framebuffer (R7). -/
def FB_BYTES : Nat := 1024

/-- ADDR, the address byte of every frame (R7, R174). -/
def ADDR : Byte := 0x78#8

/-- MODE_CMD, the mode marker of a command frame (R7, R174). -/
def MODE_CMD : Byte := 0x00#8

/-- MODE_DATA, the mode marker of a data frame (R7, R174). -/
def MODE_DATA : Byte := 0x40#8

/-- INIT_SEQ, the 11 bytes of the initialization sequence (R7, R182, R183). -/
def INIT_SEQ : List Byte :=
  [0xA8#8, 0x3F#8, 0x8D#8, 0x14#8, 0x20#8, 0x00#8, 0xC8#8, 0xA1#8, 0xDA#8, 0x12#8, 0xAF#8]

/-- DATA_FRAME_LEN = 2 + FB_BYTES (R7). -/
def DATA_FRAME_LEN : Nat := 1026

/-- INIT_FRAME_LEN (R7). -/
def INIT_FRAME_LEN : Nat := 13

end Sys2Proof.Machine
end

