-- ==== Sys2Proof/Machine/State.lean ====
section
/-! DEFINITION. The state of the block (R20), the ports around it (R55, R74, R170, R175, R250; D2), the reasons a step can
stop, and the state after reset (R38). All of it is plain data. -/

namespace Sys2Proof.Machine

/-- A framebuffer's bytes (R21): a list of (index, byte) pairs, indices strictly rising and below FB_BYTES, none with the
byte an unlisted index reads as (`Memory.unlisted`, `Memory.wf` in Machine/Ops.lean). -/
abbrev Memory := List Host.Cell

/-- A physical buffer, FB[0] or FB[1] (R15, R23). -/
inductive Buf where
  | b0
  | b1
deriving DecidableEq, Repr

/-- The causes of a fault, by the names of R210. -/
inductive FaultCode where
  | none
  | illegalOpcode
  | reservedBits
  | seedLength
  | cmdLength
  | coordRange
  | lockedWrite
  | undefinedRead
  | nextNotClear
  | swapOrder
deriving DecidableEq, Repr

/-- The transfer result of a frame (R30, R175). -/
inductive Xfer where
  | ok
  | deviceNotFound
  | transportTimeout
  | transportIoError
deriving DecidableEq, Repr

/-- What the transport answers to one frame: its result, and how many bytes of the frame reach the display where the result
is TRANSPORT_TIMEOUT or TRANSPORT_IO_ERROR. Both are draws (R175). -/
structure Transfer where
  result : Xfer
  arrived : Nat
deriving DecidableEq, Repr

/-- The kind of a frame record (R31). -/
inductive FrameKind where
  | data
  | cmd
deriving DecidableEq, Repr

/-- A frame record of OUT_LOG (R31). -/
structure FrameRecord where
  kind : FrameKind
  bytes : List Byte
  result : Xfer
deriving DecidableEq, Repr

/-- An event on the OUT port towards the transport (R170, R222). -/
inductive WireEvent where
  | assertReady
  | write (b : Byte)
  | flush
  | deassertReady
deriving DecidableEq, Repr

/-- The response codes, by the names of R74. -/
inductive RespCode where
  | ok
  | fault
  | rejected
  | deviceNotFound
  | transportTimeout
  | transportIoError
deriving DecidableEq, Repr

/-- The data of a response: one typed value or none (R55, R74). -/
inductive RespData where
  | none
  | bit (b : BitVec 1)
  | bytes (bs : List Byte)
  | word (w : Word)
deriving DecidableEq, Repr

/-- A response on the RSP port (R74). -/
structure Response where
  code : RespCode
  data : RespData
deriving DecidableEq, Repr

/-- One transaction of the host (R12, R81): a command word on the CMD port, its payload bytes, and what the transport
will answer should the operation emit a frame. -/
structure Command where
  word : Word
  payload : List Byte
  xfer : Transfer
deriving DecidableEq, Repr

/-- What the outside does next (R13, R226). -/
inductive Input where
  /-- The host issues a command (R58). -/
  | command (c : Command)
  /-- RST is asserted between two operations (R218, R250). -/
  | rst
  /-- RST is asserted while the block works on command `c` (R251), after `k` of the events the command would put on the
  OUT port; `arrived` bounds how many of the bytes written so far reach the display. -/
  | rstDuring (c : Command) (k arrived : Nat)
deriving DecidableEq, Repr

/-- The machine. The first twelve fields are the architectural state of R20; `cfg` is the configuration of R39; the others
are the model's own: the ports, and what has passed them. -/
structure State where
  /-- FB[0] (R21). -/
  fb0 : Memory
  /-- FB[1] (R21). -/
  fb1 : Memory
  /-- DEF[0] (R22). -/
  def0 : Bool
  /-- DEF[1] (R22). -/
  def1 : Bool
  /-- CUR_PHYS (R23). -/
  curPhys : Buf
  /-- STEPPED (R26). -/
  stepped : Bool
  /-- SENT (R27). -/
  sent : Bool
  /-- FAULTED (R29). -/
  faulted : Bool
  /-- FAULT_CODE (R29, R210). -/
  faultCode : FaultCode
  /-- FAULTWORD (R29, R37). -/
  faultWord : Word
  /-- LAST_XFER (R30). -/
  lastXfer : Xfer
  /-- OUT_LOG, oldest first (R31). -/
  outLog : List FrameRecord
  /-- The configuration (R8, R39; log entry 4). No step changes it. -/
  cfg : Config
  /-- The inputs still to come, the next one first (log entry 1). -/
  inputs : List Input
  /-- The transport's answer to the operation in progress, a free value (R175; log entry 2). -/
  xfer : Transfer
  /-- The responses given, oldest first (R74, R263; log entry 8). -/
  responses : List Response
  /-- For each frame put on the OUT port, the bytes of it that reached the display, oldest first (R40, R175; log entry 9). -/
  received : List (List Byte)
  /-- The events of the OUT port, oldest first (R4, R170, R176; log entry 9). -/
  wire : List WireEvent
deriving DecidableEq, Repr

/-- Why a step stops. Neither is a fault of the block, whose faults (R210) are next states: both are stuck states. -/
inductive Fault where
  /-- Raised by `step` when no input is pending: the block waits for the next command (R225). Safe: the block would do
  nothing either. -/
  | waitingForCommand
  /-- Raised by `step` on a command record whose payload does not have the LEN bytes its word asks for: the block waits for
  them (R81, R225). Safe: R81 says the model gives such a record no step. -/
  | waitingForPayload
deriving DecidableEq, Repr

/-- Why a step has no meaning. -/
inductive Refusal where
  /-- Raised by an arm of `exec` whose instruction has no meaning yet; no arm does. Safe: nothing can be proved of it. -/
  | notModelled (mnemonic : String)
deriving DecidableEq, Repr

/-- What a meaning answers. -/
abbrev Result := Host.Outcome State Fault Refusal

/-- The state right after power-on (R38, R250). The framebuffers are unspecified there and no byte is listed (log entry 3);
the values of the model's own fields are log entries 1, 2, 4, 8 and 9. -/
def State.reset : State where
  fb0 := []
  fb1 := []
  def0 := false
  def1 := false
  curPhys := .b0
  stepped := false
  sent := false
  faulted := false
  faultCode := .none
  faultWord := 0x00000000#32
  lastXfer := .ok
  outLog := []
  cfg := Config.standard
  inputs := []
  xfer := { result := .ok, arrived := 0 }
  responses := []
  received := []
  wire := []

end Sys2Proof.Machine
end

