-- ==== Sys2Proof/Machine/Ops.lean ====
section
/-! DEFINITION. The named operations over framebuffers, roles, responses, frames and the fault state (R11). -/

namespace Sys2Proof.Machine

/-! ### Framebuffer bytes -/

/-- What a byte that no write has listed reads as. DESIGN CHOICE, log entry 3: the spec leaves the bytes unspecified and
lets no operation show them (R22, R38). -/
def Memory.unlisted : Byte := 0x00#8

/-- MemRead(F, i, 1) (R11). -/
def Memory.read : Memory → Nat → Byte
  | [], _ => Memory.unlisted
  | (c, v) :: m, a => if a = c then v else Memory.read m a

/-- MemWrite(F, i, 1, v) (R11), in the canonical form. -/
def Memory.write : Memory → Nat → Byte → Memory
  | [], a, b => if b = Memory.unlisted then [] else [(a, b)]
  | (c, v) :: m, a, b =>
    if a < c then (if b = Memory.unlisted then (c, v) :: m else (a, b) :: (c, v) :: m)
    else if a = c then (if b = Memory.unlisted then m else (a, b) :: m)
    else (c, v) :: Memory.write m a b

/-- The bytes `bs` at the indices from `k` on, every other index unlisted. -/
def Memory.ofBytesFrom (k : Nat) : List Byte → Memory
  | [] => []
  | b :: bs => if b = Memory.unlisted then Memory.ofBytesFrom (k + 1) bs else (k, b) :: Memory.ofBytesFrom (k + 1) bs

/-- A whole-buffer write (R53, R57): byte k of `bs` at index k. -/
def Memory.ofBytes (bs : List Byte) : Memory := Memory.ofBytesFrom 0 bs

/-- The bytes of a buffer in index order 0 to 1023 (R54, R65). -/
def Memory.toBytes (m : Memory) : List Byte := (List.range FB_BYTES).map m.read

/-- The canonical form from index `k` on: indices rising and below FB_BYTES, no unlisted byte listed. -/
def Memory.wfFrom (k : Nat) : Memory → Bool
  | [] => true
  | (c, v) :: m => decide (k ≤ c) && decide (c < FB_BYTES) && decide (v ≠ Memory.unlisted) && Memory.wfFrom (c + 1) m

/-- The canonical form of a framebuffer's bytes. -/
def Memory.wf (m : Memory) : Bool := Memory.wfFrom 0 m

/-! ### Buffers and roles -/

/-- 1 - p (R23). -/
def Buf.other : Buf → Buf
  | .b0 => .b1
  | .b1 => .b0

/-- The bit a physical index stands for (R23, R36). -/
def Buf.bit : Buf → BitVec 1
  | .b0 => 0#1
  | .b1 => 1#1

/-- FB[p]. -/
def State.fb (s : State) : Buf → Memory
  | .b0 => s.fb0
  | .b1 => s.fb1

/-- DEF[p]. -/
def State.defd (s : State) : Buf → Bool
  | .b0 => s.def0
  | .b1 => s.def1

/-- FB[p] <- m. -/
def State.setFb (s : State) (p : Buf) (m : Memory) : State :=
  match p with
  | .b0 => { s with fb0 := m }
  | .b1 => { s with fb1 := m }

/-- DEF[p] <- 1. No operation writes 0 to a DEF flag (R22). -/
def State.setDef (s : State) (p : Buf) : State :=
  match p with
  | .b0 => { s with def0 := true }
  | .b1 => { s with def1 := true }

/-- phys(r) (R25). -/
def State.phys (s : State) : Role → Buf
  | .cur => s.curPhys
  | .nxt => s.curPhys.other

/-! ### Responses -/

/-- The 8-bit number of a response code (R74). -/
def RespCode.byte : RespCode → BitVec 8
  | .ok => 0x00#8
  | .fault => 0x01#8
  | .rejected => 0x02#8
  | .deviceNotFound => 0x10#8
  | .transportTimeout => 0x11#8
  | .transportIoError => 0x12#8

/-- respond(code, data) (R11, R74). -/
def State.respond (s : State) (code : RespCode) (data : RespData) : State :=
  { s with responses := s.responses ++ [{ code := code, data := data }] }

/-- respond(OK) without data: the end of an operation that only changes state. -/
def done (s : State) : Result := .next (s.respond .ok .none)

/-! ### The fault state -/

/-- The 4-bit number of a fault cause (R210). -/
def FaultCode.code : FaultCode → BitVec 4
  | .none => 0x0#4
  | .illegalOpcode => 0x1#4
  | .reservedBits => 0x2#4
  | .seedLength => 0x3#4
  | .cmdLength => 0x4#4
  | .coordRange => 0x5#4
  | .lockedWrite => 0x6#4
  | .undefinedRead => 0x7#4
  | .nextNotClear => 0x8#4
  | .swapOrder => 0x9#4

/-- The three fields a fault writes (R213). -/
def State.enterFault (s : State) (code : FaultCode) (w : Word) : State :=
  { s with faulted := true, faultCode := code, faultWord := w }

/-- raise Fault(code) during an operation with command word `w` (R11, R213): the block enters the fault state and nothing
else changes. -/
def raise (code : FaultCode) (w : Word) (s : State) : Result := .next ((s.enterFault code w).respond .fault .none)

/-- The answer to an operation that comes in the fault state (R214): no effect at all. -/
def reject (s : State) : Result := .next (s.respond .rejected .none)

/-- The first common check (R212): in the fault state the operation is rejected, else it goes on as `k`. -/
def accept (s : State) (k : Result) : Result := if s.faulted then reject s else k

/-- A command word that names no operation (R212 items 1 to 3). -/
def badWord (code : FaultCode) (w : Word) (s : State) : Result := accept s (raise code w s)

/-- The way out of the fault state, and the only one (R214, R250): RST puts every field of R20 into its value after
power-on. The configuration, the inputs still to come and what has passed the ports stay (log entries 4, 8, 9, 10). -/
def State.afterRst (s : State) : State :=
  { State.reset with
    cfg := s.cfg, inputs := s.inputs, xfer := s.xfer, responses := s.responses, received := s.received, wire := s.wire }

/-! ### Frames -/

/-- DataFrame(F) (R172). -/
def dataFrame (m : Memory) : List Byte := ADDR :: MODE_DATA :: m.toBytes

/-- CmdFrame(c) (R173). -/
def cmdFrame (c : List Byte) : List Byte := ADDR :: MODE_CMD :: c

/-- The number of a transfer result in LAST_XFER (R30, R170). -/
def Xfer.code : Xfer → BitVec 2
  | .ok => 0#2
  | .deviceNotFound => 1#2
  | .transportTimeout => 2#2
  | .transportIoError => 3#2

/-- code_of(xr), the response code of a transfer result (R175). -/
def Xfer.response : Xfer → RespCode
  | .ok => .ok
  | .deviceNotFound => .deviceNotFound
  | .transportTimeout => .transportTimeout
  | .transportIoError => .transportIoError

/-- The part of a frame that reaches the display (R175). -/
def Transfer.delivered (x : Transfer) (bytes : List Byte) : List Byte :=
  match x.result with
  | .ok => bytes
  | .deviceNotFound => []
  | .transportTimeout => bytes.take x.arrived
  | .transportIoError => bytes.take x.arrived

/-- The first four lines of emit (R170): assert READY, write the bytes in order, flush, de-assert READY. -/
def emission (bytes : List Byte) : List WireEvent :=
  [.assertReady] ++ bytes.map .write ++ [.flush, .deassertReady]

/-- Whether READY is asserted after the events `es`, having been `r` before them (R32, R176). -/
def readyAfter (r : Bool) : List WireEvent → Bool
  | [] => r
  | .assertReady :: es => readyAfter true es
  | .deassertReady :: es => readyAfter false es
  | .write _ :: es => readyAfter r es
  | .flush :: es => readyAfter r es

/-- The bytes written by the events `es`, in order. -/
def written : List WireEvent → List Byte
  | [] => []
  | .write b :: es => b :: written es
  | .assertReady :: es => written es
  | .flush :: es => written es
  | .deassertReady :: es => written es

/-- emit(kind, bytes) (R170), the transport's answer standing in `s.xfer`. -/
def State.emit (s : State) (kind : FrameKind) (bytes : List Byte) : State :=
  { s with
    wire := s.wire ++ emission bytes
    received := s.received ++ [s.xfer.delivered bytes]
    outLog := s.outLog ++ [{ kind := kind, bytes := bytes, result := s.xfer.result }]
    lastXfer := s.xfer.result }

/-- What of one frame is on the OUT port when RST comes after `k` of its events (R251): those events, and the de-assertion
of READY that reset brings (R250). -/
def cutEmission (k : Nat) (bytes : List Byte) : List WireEvent :=
  (emission bytes).take k ++ (if readyAfter false ((emission bytes).take k) then [.deassertReady] else [])

/-- What of that frame reaches the display: any part of the bytes written so far, from the front (R251). Nothing is
recorded where the frame had not begun. -/
def cutReceived (k arrived : Nat) (bytes : List Byte) : List (List Byte) :=
  if k = 0 then [] else [(written ((emission bytes).take k)).take arrived]

end Sys2Proof.Machine
end

