-- ==== Sys2Proof/Machine/Operands.lean ====
section
/-! DEFINITION. Cell coordinates: their ranges, the toroidal normalization and the packed layout (R50, R71, R101). -/

namespace Sys2Proof.Machine

/-- byte_index(x, y) (R50), with y >> 3 as the floor division it is (R10). -/
def byteIndex (x y : Nat) : Nat := y / 8 * W + x

/-- bit_index(y) (R50), with y & 7 as the remainder it is. -/
def bitIndex (y : Nat) : Nat := y % 8

/-- pixel(F, x, y), also called cell(F, x, y) (R50, R141), for a cell in range. -/
def cell (m : Memory) (x y : Nat) : Bool := (m.read (byteIndex x y)).getLsbD (bitIndex y)

/-- norm(v, n) (R101). -/
def norm (v n : Int) : Int :=
  if v = -1 then v + n
  else if v = n then v - n
  else v

/-- X = sext_9 of its field (R71). -/
def coordX (x : BitVec 9) : Int := x.toInt

/-- Y = sext_8 of its field (R71). -/
def coordY (y : BitVec 8) : Int := y.toInt

/-- The coordinates GET accepts (R100): within one unit of the grid. -/
def inGetRange (x y : Int) : Bool := decide (-1 ≤ x ∧ x ≤ (W : Int) ∧ -1 ≤ y ∧ y ≤ (H : Int))

/-- The coordinates SET accepts (R102): cells of the grid. -/
def inSetRange (x y : Int) : Bool := decide (0 ≤ x ∧ x < (W : Int) ∧ 0 ≤ y ∧ y < (H : Int))

/-- The cell at coordinates within one unit of the grid, wrapped on each axis (R100, R101, R141). -/
def wrappedCell (m : Memory) (x y : Int) : Bool := cell m (norm x W).toNat (norm y H).toNat

/-- The buffer after the bit of one cell in range is ORed in (R102). -/
def setCell (m : Memory) (x y : Nat) : Memory :=
  m.write (byteIndex x y) (m.read (byteIndex x y) ||| (1#8 <<< bitIndex y))

end Sys2Proof.Machine
end

