-- ==== Sys2Proof/Machine/Flags.lean ====
section
/-! DEFINITION. The predicates computed from the state and the status word (R28, R36, R151). -/

namespace Sys2Proof.Machine

/-- Whether every byte of a buffer is 0x00 (R28). -/
def allZero (m : Memory) : Bool := (List.range FB_BYTES).all fun i => m.read i == 0x00#8

/-- NXT_ZERO(S) (R28): next is defined and all zero. -/
def State.nxtZero (s : State) : Bool := s.defd (s.phys .nxt) && allZero (s.fb (s.phys .nxt))

/-- SWAP_ALLOWED(S) (R151). -/
def State.swapAllowed (s : State) : Bool := s.stepped && (s.sent || !s.cfg.swapNeedsSend)

/-- STATUS (R36): from bit 31 down, 18 zeros, LAST_XFER, FAULT_CODE, a zero, FAULTED, SENT, STEPPED, NXT_ZERO, DEF1, DEF0,
CUR_PHYS. -/
def State.status (s : State) : Word :=
  0#18 ++ s.lastXfer.code ++ s.faultCode.code ++ 0#1 ++ BitVec.ofBool s.faulted ++ BitVec.ofBool s.sent ++
    BitVec.ofBool s.stepped ++ BitVec.ofBool s.nxtZero ++ BitVec.ofBool s.def1 ++ BitVec.ofBool s.def0 ++ s.curPhys.bit

end Sys2Proof.Machine
end

