-- ==== Sys2Proof/Machine/Control.lean ====
section
/-! DEFINITION. The control operation RDSTAT (R200). -/

namespace Sys2Proof.Machine

/-- The register a selector names (R36, R37, R200). -/
def State.control (s : State) : StatSel → Word
  | .status => s.status
  | .fault => s.faultWord

/-- RDSTAT (R200). It is the one operation that also runs in the fault state (R214), so it has no `accept`. -/
def execRdstat (sel : StatSel) (s : State) : Result := .next (s.respond .ok (.word (s.control sel)))

end Sys2Proof.Machine
end

