-- ==== Sys2Proof/Machine/Encoder.lean ====
section
/-! DEFINITION. The frame encoder operations SENDF, SENDC and SENDINIT (R170 to R184). -/

namespace Sys2Proof.Machine

/-- The end of a frame operation: the response is the transfer result (R175). -/
def answerXfer (s : State) : Result := .next (s.respond s.xfer.result.response .none)

/-- SENT <- 1 where the transfer result is OK; else SENT keeps its value (R27, R171). -/
def State.markSent (s : State) : State := { s with sent := s.sent || decide (s.xfer.result = .ok) }

/-- SENDF (R171). -/
def execSendf (s : State) : Result :=
  accept s <|
    if s.defd (s.phys .cur) = false then raise .undefinedRead (encode .sendf) s
    else answerXfer (s.emit .data (dataFrame (s.fb (s.phys .cur)))).markSent

/-- SENDC (R180), LEN being the number of payload bytes. -/
def execSendc (payload : List Byte) (s : State) : Result :=
  accept s <|
    if payload.length = 0 then raise .cmdLength (encode (.sendc payload)) s
    else answerXfer (s.emit .cmd (cmdFrame payload))

/-- SENDINIT (R182). -/
def execSendinit (s : State) : Result := accept s <| answerXfer (s.emit .cmd (cmdFrame INIT_SEQ))

end Sys2Proof.Machine
end

