-- ==== Sys2Proof/Machine/Framebuffer.lean ====
section
/-! DEFINITION. The framebuffer operations GET, SET, CLEAR, RDBYTES and LDSEED (R100 to R106). -/

namespace Sys2Proof.Machine

/-- GET (R100). -/
def execGet (r : Role) (x : BitVec 9) (y : BitVec 8) (s : State) : Result :=
  accept s <|
    if inGetRange (coordX x) (coordY y) = false then raise .coordRange (encode (.get r x y)) s
    else if s.defd (s.phys r) = false then raise .undefinedRead (encode (.get r x y)) s
    else .next (s.respond .ok (.bit (BitVec.ofBool (wrappedCell (s.fb (s.phys r)) (coordX x) (coordY y)))))

/-- SET (R102). DEF is not read and not written: SET is allowed on an undefined buffer, which stays undefined. -/
def execSet (r : Role) (x : BitVec 9) (y : BitVec 8) (s : State) : Result :=
  accept s <|
    if inSetRange (coordX x) (coordY y) = false then raise .coordRange (encode (.set r x y)) s
    else if s.stepped then raise .lockedWrite (encode (.set r x y)) s
    else done (s.setFb (s.phys r) (setCell (s.fb (s.phys r)) (coordX x).toNat (coordY y).toNat))

/-- CLEAR (R104). -/
def execClear (r : Role) (s : State) : Result :=
  accept s <|
    if s.stepped then raise .lockedWrite (encode (.clear r)) s
    else done ((s.setFb (s.phys r) (Memory.ofBytes (List.replicate FB_BYTES 0x00#8))).setDef (s.phys r))

/-- RDBYTES (R105). -/
def execRdbytes (r : Role) (s : State) : Result :=
  accept s <|
    if s.defd (s.phys r) = false then raise .undefinedRead (encode (.rdbytes r)) s
    else .next (s.respond .ok (.bytes (s.fb (s.phys r)).toBytes))

/-- LDSEED (R106), LEN being the number of payload bytes. -/
def execLdseed (payload : List Byte) (s : State) : Result :=
  accept s <|
    if payload.length ≠ FB_BYTES then raise .seedLength (encode (.ldseed payload)) s
    else if s.stepped then raise .lockedWrite (encode (.ldseed payload)) s
    else done ((s.setFb (s.phys .cur) (Memory.ofBytes payload)).setDef (s.phys .cur))

end Sys2Proof.Machine
end

