-- ==== Sys2Proof/Machine/Life.lean ====
section
/-! DEFINITION. The Life engine: the neighbour counter, the rule, the generation function, STEP and SWAP (R140 to R151). -/

namespace Sys2Proof.Machine

/-- The eight displacements (dx, dy) of the neighbour counter (R141). -/
def neighbours : List (Int × Int) := [(-1, -1), (-1, 0), (-1, 1), (0, -1), (0, 1), (1, -1), (1, 0), (1, 1)]

/-- count(F, x, y) (R141). -/
def count (m : Memory) (x y : Nat) : Nat :=
  (neighbours.map fun d => (wrappedCell m (x + d.1) (y + d.2)).toNat).sum

/-- rule(a, k) (R142). -/
def lifeRule (a : Bool) (k : Nat) : Bool :=
  if a = true ∧ (k = 2 ∨ k = 3) then true
  else if a = false ∧ k = 3 then true
  else false

/-- The cell (x, y) of the next generation (R143). -/
def lifeCell (m : Memory) (x y : Nat) : Bool := lifeRule (cell m x y) (count m x y)

/-- Eight cells packed into a byte, cell b in bit b (R51, R143). -/
def packByte (f : Nat → Bool) : Byte := BitVec.ofBoolListLE [f 0, f 1, f 2, f 3, f 4, f 5, f 6, f 7]

/-- Life(F)[i] (R143). -/
def lifeByte (m : Memory) (i : Nat) : Byte := packByte fun b => lifeCell m (i % W) (8 * (i / W) + b)

/-- Life(F) (R143). -/
def life (m : Memory) : Memory := Memory.ofBytes ((List.range FB_BYTES).map (lifeByte m))

/-- STEPPED <- 1 (R26, R140). -/
def State.markStepped (s : State) : State := { s with stepped := true }

/-- The three writes of SWAP (R150): CUR_PHYS <- 1 - CUR_PHYS, STEPPED <- 0, SENT <- 0. -/
def State.exchange (s : State) : State := { s with curPhys := s.curPhys.other, stepped := false, sent := false }

/-- STEP (R140). -/
def execStep (s : State) : Result :=
  accept s <|
    if s.defd (s.phys .cur) = false then raise .undefinedRead (encode .step) s
    else if s.nxtZero = false then raise .nextNotClear (encode .step) s
    else done (s.setFb (s.phys .nxt) (life (s.fb (s.phys .cur)))).markStepped

/-- SWAP (R150). -/
def execSwap (s : State) : Result :=
  accept s <|
    if s.swapAllowed = false then raise .swapOrder (encode .swap) s
    else done s.exchange

end Sys2Proof.Machine
end

