-- ==== Sys2Proof/Machine/Dispatch.lean ====
section
/-! DEFINITION. What each operation does: one arm per constructor. -/

namespace Sys2Proof.Machine

def exec (i : Instr) (s : State) : Host.Outcome State Fault Refusal :=
  match i with
  | .get r x y => Sys2Proof.Machine.execGet r x y s
  | .set r x y => Sys2Proof.Machine.execSet r x y s
  | .clear r => Sys2Proof.Machine.execClear r s
  | .rdbytes r => Sys2Proof.Machine.execRdbytes r s
  | .ldseed payload => Sys2Proof.Machine.execLdseed payload s
  | .step => Sys2Proof.Machine.execStep s
  | .swap => Sys2Proof.Machine.execSwap s
  | .sendf => Sys2Proof.Machine.execSendf s
  | .sendc payload => Sys2Proof.Machine.execSendc payload s
  | .sendinit => Sys2Proof.Machine.execSendinit s
  | .rdstat sel => Sys2Proof.Machine.execRdstat sel s

end Sys2Proof.Machine
end

