-- ==== Sys2Proof/Machine/Issue.lean ====
section
/-! DEFINITION. What one input does: a command issued on the CMD port (R58, R212), RST between operations (R250), RST during
an operation (R251); and how a command given as one number is put on the port. -/

namespace Sys2Proof.Machine

/-- The CMD port takes the pending record: the inputs after it remain, and its transport answer stands at the XR input. -/
def State.takeCommand (s : State) (c : Command) (rest : List Input) : State :=
  { s with inputs := rest, xfer := c.xfer }

/-- A command word with its payload (R212). A rejected or faulting format L command has consumed its payload too (R80): the
payload is part of the record. -/
def issue (c : Command) (s : State) : Result :=
  match decode c.word c.payload with
  | .ok i => exec i s
  | .error .payloadLength => .fault .waitingForPayload
  | .error .illegalOpcode => badWord .illegalOpcode c.word s
  | .error .reservedBits => badWord .reservedBits c.word s

/-- The frames an answer has added to OUT_LOG: at most one (R12). -/
def framesAdded (s : State) : Result → List FrameRecord
  | .next t => t.outLog.drop s.outLog.length
  | .fault _ => []
  | .refused _ => []

/-- RST while the block works on command `c` (R251): the operation gives no response and no effect of it survives but what
it had put on the OUT port, which is `k` of the events of the frame it would have emitted. -/
def abort (c : Command) (k arrived : Nat) (s : State) : State :=
  let cut := framesAdded s (issue c s)
  { s.afterRst with
    received := s.received ++ cut.flatMap fun f => cutReceived k arrived f.bytes
    wire := s.wire ++ cut.flatMap fun f => cutEmission k f.bytes }

/-- The block's one step for one pending input. -/
def serve (i : Input) (rest : List Input) (s : State) : Result :=
  match i with
  | .command c => issue c (s.takeCommand c rest)
  | .rst => .next { s.afterRst with inputs := rest }
  | .rstDuring c k arrived => .next (abort c k arrived (s.takeCommand c rest))

/-- The command record of an instruction given as one number, with a transport that answers OK (log entry 14). -/
def tableCommand (nbits w : Nat) : Command :=
  { word := tableWord nbits w, payload := tablePayload nbits w, xfer := { result := .ok, arrived := 0 } }

end Sys2Proof.Machine
end

