-- ==== Sys2Proof/Machine/Step.lean ====
section
/-! DEFINITION. The step of the block (R12, R58), and an instruction placed where it is taken next. -/

namespace Sys2Proof.Machine

/-- One step: the next pending input is served (R58). Without one the block waits (R225). -/
def step (s : State) : Host.Outcome State Fault Refusal :=
  match s.inputs with
  | [] => .fault .waitingForCommand
  | i :: rest => serve i rest s

/-- The state with an instruction, given as one number, as the next pending input: the host issues it (log entry 1). -/
def State.withFetchWord (s : State) (nbits w : Nat) : State :=
  { s with inputs := .command (tableCommand nbits w) :: s.inputs }

end Sys2Proof.Machine
end

