-- ==== Sys2Proof/Machine/Assembler.lean ====
section
/-! DEFINITION. The assembler's operands and the pseudo-instructions (R82, R83), and a sequence of operations. The text of a
source line is Machine/AsmText.lean. -/

namespace Sys2Proof.Machine

/-- One line of assembly with its operands as given (R82): coordinates are integers. -/
inductive AsmLine where
  | get (r : Role) (x y : Int)
  | set (r : Role) (x y : Int)
  | clear (r : Role)
  | rdbytes (r : Role)
  | ldseed (bytes : List Byte)
  | step
  | swap
  | sendf
  | sendinit
  | sendc (bytes : List Byte)
  | rdstat (sel : StatSel)
deriving DecidableEq, Repr

/-- x fits the 9-bit field (R71, R82). -/
def xFits (x : Int) : Bool := decide (-256 ≤ x ∧ x ≤ 255)

/-- y fits the 8-bit field (R71, R82). -/
def yFits (y : Int) : Bool := decide (-128 ≤ y ∧ y ≤ 127)

/-- The assembler (R82): it encodes operands as given and refuses only what does not fit its field. -/
def assemble : AsmLine → Option Instr
  | .get r x y => if xFits x && yFits y then some (.get r (BitVec.ofInt 9 x) (BitVec.ofInt 8 y)) else none
  | .set r x y => if xFits x && yFits y then some (.set r (BitVec.ofInt 9 x) (BitVec.ofInt 8 y)) else none
  | .clear r => some (.clear r)
  | .rdbytes r => some (.rdbytes r)
  | .ldseed p => if lenFits p then some (.ldseed p) else none
  | .step => some .step
  | .swap => some .swap
  | .sendf => some .sendf
  | .sendinit => some .sendinit
  | .sendc p => if lenFits p then some (.sendc p) else none
  | .rdstat sel => some (.rdstat sel)

/-- `BOOT <seed>` (R83, R252). -/
def boot (seed : List Byte) : List Instr := [.ldseed seed, .clear .nxt, .sendinit]

/-- `GEN` (R83). -/
def gen : List Instr := [.step, .sendf, .swap, .clear .nxt]

/-- `GENQ` (R83), of use only where P_SWAP_NEEDS_SEND is false. -/
def genq : List Instr := [.step, .swap, .clear .nxt]

/-- `CLEARALL` (R83). -/
def clearall : List Instr := [.clear .cur, .clear .nxt]

/-- `RDFAULT` (R83). -/
def rdfault : List Instr := [.rdstat .fault]

/-- A sequence of operations, each on the state the one before it left (R58). -/
def execAll : List Instr → State → Result
  | [], s => .next s
  | i :: is, s =>
    match exec i s with
    | .next t => execAll is t
    | .fault f => .fault f
    | .refused r => .refused r

end Sys2Proof.Machine
end

