-- ==== Sys2Proof/Safety.lean ====
section
/-! DEFINITION. What holds of every state the block can reach, and the terms in which claims about it are made: the torus
read by remainders, patterns of cells, the causes of faults, and equalities between states. None of it is used by the
machine. -/

namespace Sys2Proof.Machine

/-! ### Invariants -/

/-- The bytes of both framebuffers are in the canonical form. -/
def State.fbsWf (s : State) : Prop := s.fb0.wf = true ∧ s.fb1.wf = true

/-- FAULT_CODE and FAULTWORD are 0 while FAULTED = 0, and a fault has a cause (R29). -/
def State.faultFieldsOk (s : State) : Prop :=
  (s.faulted = false → s.faultCode = .none ∧ s.faultWord = 0#32) ∧ (s.faulted = true → s.faultCode ≠ .none)

/-- R41: while STEPPED = 1 both buffers are defined and next holds the generation after current. -/
def State.lockOk (s : State) : Prop :=
  s.stepped = true →
    s.defd (s.phys .cur) = true ∧ s.defd (s.phys .nxt) = true ∧ s.fb (s.phys .nxt) = life (s.fb (s.phys .cur))

/-- SENT is set by a SENDF, which reads a defined current buffer (R27, R171). -/
def State.sentOk (s : State) : Prop := s.sent = true → s.defd (s.phys .cur) = true

/-- A frame the block may emit (R172, R173, R174): its header, and its length. -/
def FrameRecord.wellFormed (f : FrameRecord) : Prop :=
  match f.kind with
  | .data => f.bytes.length = 1026 ∧ f.bytes.take 2 = [0x78#8, 0x40#8]
  | .cmd => 3 ≤ f.bytes.length ∧ f.bytes.take 2 = [0x78#8, 0x00#8]

/-- Every frame of OUT_LOG is one the block may emit (R174). -/
def State.outLogOk (s : State) : Prop := ∀ f ∈ s.outLog, f.wellFormed

/-- LAST_XFER is the result of the last frame of OUT_LOG, or 0 where there is none (R30, D40). -/
def State.lastXferOk (s : State) : Prop :=
  s.lastXfer = match s.outLog.getLast? with
    | some f => f.result
    | none => .ok

/-- The order of events on the OUT port (R170, R176): READY is asserted only while it is not, and bytes and flushes come
only while it is. The first argument says whether READY is asserted. -/
def wireOrder : Bool → List WireEvent → Bool
  | _, [] => true
  | r, .assertReady :: es => !r && wireOrder true es
  | r, .write _ :: es => r && wireOrder r es
  | r, .flush :: es => r && wireOrder r es
  | r, .deassertReady :: es => r && wireOrder false es

/-- The OUT port has kept its order, and READY is de-asserted between operations (R32, R176). -/
def State.wireOk (s : State) : Prop := wireOrder false s.wire = true ∧ readyAfter false s.wire = false

/-- What holds of every state the block can reach. -/
def State.Inv (s : State) : Prop :=
  s.fbsWf ∧ s.faultFieldsOk ∧ s.lockOk ∧ s.sentOk ∧ s.outLogOk ∧ s.lastXferOk ∧ s.wireOk

/-- A state in which the next generation may be computed and shown (R252, R254): the block runs, is not locked, both
buffers are defined and next is all zero. -/
def State.ready (s : State) : Prop :=
  s.faulted = false ∧ s.stepped = false ∧ s.defd (s.phys .cur) = true ∧ s.defd (s.phys .nxt) = true ∧
    ∀ a, a < 1024 → (s.fb (s.phys .nxt)).read a = 0#8

/-- The value column of R38, for every field but the framebuffers' bytes. -/
def State.atReset (s : State) : Prop :=
  s.def0 = false ∧ s.def1 = false ∧ s.curPhys = .b0 ∧ s.stepped = false ∧ s.sent = false ∧ s.faulted = false ∧
    s.faultCode = .none ∧ s.faultWord = 0x00000000#32 ∧ s.lastXfer = .ok ∧ s.outLog = [] ∧
    readyAfter false s.wire = false ∧ s.status = 0x00000000#32

/-! ### The torus by remainders -/

/-- The cell of the torus at (x mod 128, y mod 64), read from its byte (R50). -/
def torusCell (m : Memory) (x y : Int) : Bool :=
  (m.read ((y % 64).toNat / 8 * 128 + (x % 128).toNat)).getLsbD ((y % 64).toNat % 8)

/-- The live cells among the eight around (x, y), each at one of the nine offsets but (0, 0). -/
def torusCount (m : Memory) (x y : Int) : Nat :=
  (([-1, 0, 1].product [-1, 0, 1]).filter fun d : Int × Int =>
    decide (d ≠ (0, 0)) && torusCell m (x + d.1) (y + d.2)).length

/-- The live cells of a buffer are exactly the cells `cells`, taken on the torus. -/
def holdsExactly (m : Memory) (cells : List (Int × Int)) : Prop :=
  ∀ x y : Int, torusCell m x y = true ↔ ∃ c ∈ cells, (x - c.1) % 128 = 0 ∧ (y - c.2) % 64 = 0

/-- A pattern moved by (a, b). -/
def moved (a b : Int) (cells : List (Int × Int)) : List (Int × Int) := cells.map fun c => (c.1 + a, c.2 + b)

/-- G0, the glider of R155. -/
def glider : List (Int × Int) := [(1, 0), (2, 1), (0, 2), (1, 2), (2, 2)]

/-- The 2×2 block at the origin (R156). -/
def block : List (Int × Int) := [(0, 0), (1, 0), (0, 1), (1, 1)]

/-- Life applied n times (R254). -/
def lifeIter : Nat → Memory → Memory
  | 0, m => m
  | n + 1, m => lifeIter n (life m)

/-! ### A parallel Life engine (R144)

Eight cells of a column are computed at once from a window of three pages and three columns, by bitwise adders. -/

/-- The byte of column x (mod 128) of page p (mod 8). -/
def columnByte (m : Memory) (x p : Int) : Byte := m.read ((p % 8).toNat * 128 + (x % 128).toNat)

/-- The column with every cell replaced by the cell above it. -/
def cellsAbove (m : Memory) (x p : Int) : Byte := (columnByte m x p <<< 1) ||| (columnByte m x (p - 1) >>> 7)

/-- The column with every cell replaced by the cell below it. -/
def cellsBelow (m : Memory) (x p : Int) : Byte := (columnByte m x p >>> 1) ||| (columnByte m x (p + 1) <<< 7)

/-- Eight counters of three bits, one for each cell of a column; a count of 8 reads as 0. -/
structure Counters where
  ones : Byte
  twos : Byte
  fours : Byte

/-- Add one cell to each counter. -/
def Counters.add (c : Counters) (a : Byte) : Counters where
  ones := c.ones ^^^ a
  twos := c.twos ^^^ (c.ones &&& a)
  fours := c.fours ^^^ (c.twos &&& (c.ones &&& a))

/-- The eight neighbours of each cell of a column, counted. -/
def columnCounters (m : Memory) (x p : Int) : Counters :=
  [cellsAbove m (x - 1) p, columnByte m (x - 1) p, cellsBelow m (x - 1) p, cellsAbove m x p, cellsBelow m x p,
    cellsAbove m (x + 1) p, columnByte m (x + 1) p, cellsBelow m (x + 1) p].foldl Counters.add
    { ones := 0#8, twos := 0#8, fours := 0#8 }

/-- The next generation of a column: count 3, or count 2 on a live cell. -/
def nextColumn (m : Memory) (x p : Int) : Byte :=
  let c := columnCounters m x p
  ~~~c.fours &&& c.twos &&& (c.ones ||| columnByte m x p)

/-- The next generation computed column by column. -/
def parallelLife (m : Memory) : Memory :=
  Memory.ofBytes ((List.range 1024).map fun i => nextColumn m (i % 128 : Nat) (i / 128 : Nat))

/-! ### The causes of faults -/

/-- The cause column of R210 for the causes an operation can have (R211). -/
def causeHolds (i : Instr) (s : State) : FaultCode → Prop
  | .none => False
  | .illegalOpcode => False
  | .reservedBits => False
  | .seedLength => ∃ p, i = .ldseed p ∧ p.length ≠ 1024
  | .cmdLength => ∃ p, i = .sendc p ∧ p.length = 0
  | .coordRange =>
    (∃ r x y, i = .get r x y ∧ ¬(-1 ≤ x.toInt ∧ x.toInt ≤ 128 ∧ -1 ≤ y.toInt ∧ y.toInt ≤ 64)) ∨
      (∃ r x y, i = .set r x y ∧ ¬(0 ≤ x.toInt ∧ x.toInt < 128 ∧ 0 ≤ y.toInt ∧ y.toInt < 64))
  | .lockedWrite => s.stepped = true ∧ ((∃ r x y, i = .set r x y) ∨ (∃ r, i = .clear r) ∨ (∃ p, i = .ldseed p))
  | .undefinedRead =>
    (∃ r, ((∃ x y, i = .get r x y) ∨ i = .rdbytes r) ∧ s.defd (s.phys r) = false) ∨
      ((i = .step ∨ i = .sendf) ∧ s.defd (s.phys .cur) = false)
  | .nextNotClear =>
    i = .step ∧ ¬ (s.defd (s.phys .nxt) = true ∧ ∀ a, a < 1024 → (s.fb (s.phys .nxt)).read a = 0x00#8)
  | .swapOrder => i = .swap ∧ ¬(s.stepped = true ∧ (s.sent = true ∨ s.cfg.swapNeedsSend = false))

/-- The state after a fault (R213): the state before, the three fault fields, and the response. -/
def faultState (s : State) (code : FaultCode) (w : Word) : State :=
  { s with faulted := true, faultCode := code, faultWord := w, responses := s.responses ++ [⟨.fault, .none⟩] }

/-! ### Responses -/

/-- The type of an operation's response data with code OK (R74). -/
def dataFits : Instr → RespData → Prop
  | .get _ _ _, d => ∃ b, d = .bit b
  | .set _ _ _, d => d = .none
  | .clear _, d => d = .none
  | .rdbytes _, d => ∃ bs, d = .bytes bs ∧ bs.length = 1024
  | .ldseed _, d => d = .none
  | .step, d => d = .none
  | .swap, d => d = .none
  | .sendf, d => d = .none
  | .sendc _, d => d = .none
  | .sendinit, d => d = .none
  | .rdstat _, d => ∃ w, d = .word w

/-- Whether an operation emits a frame where it completes (R170). -/
def emitsFrame : Instr → Bool
  | .get _ _ _ => false
  | .set _ _ _ => false
  | .clear _ => false
  | .rdbytes _ => false
  | .ldseed _ => false
  | .step => false
  | .swap => false
  | .sendf => true
  | .sendc _ => true
  | .sendinit => true
  | .rdstat _ => false

/-! ### Equalities between states -/

/-- Two states that differ at most in the bytes of buffers that are undefined in both. -/
def State.sameDefined (s t : State) : Prop :=
  (∃ m0 m1, t = { s with fb0 := m0, fb1 := m1 }) ∧
    (s.def0 = true → t.fb0 = s.fb0) ∧ (s.def1 = true → t.fb1 = s.fb1)

/-- The state with its two physical buffers exchanged and each role still on the same contents. -/
def State.renamed (s : State) : State :=
  { s with fb0 := s.fb1, fb1 := s.fb0, def0 := s.def1, def1 := s.def0, curPhys := s.curPhys.other }

/-- The display's part of the result column of R175. -/
def partOfFrame (x : Transfer) (bytes part : List Byte) : Prop :=
  match x.result with
  | .ok => part = bytes
  | .deviceNotFound => part = []
  | .transportTimeout => part = bytes.take x.arrived
  | .transportIoError => part = bytes.take x.arrived

/-- The response codes of R175 by their numbers. -/
def xferByte : Xfer → BitVec 8
  | .ok => 0x00#8
  | .deviceNotFound => 0x10#8
  | .transportTimeout => 0x11#8
  | .transportIoError => 0x12#8

/-- The state after a frame operation that has emitted `bytes` as a frame of kind `kind`, `part` being what of it reached
the display and `code` its response code (R170, R175). -/
def frameState (s : State) (kind : FrameKind) (bytes part : List Byte) (code : RespCode) : State :=
  { s with
    outLog := s.outLog ++ [⟨kind, bytes, s.xfer.result⟩]
    lastXfer := s.xfer.result
    received := s.received ++ [part]
    wire := s.wire ++ ([.assertReady] ++ bytes.map .write ++ [.flush, .deassertReady])
    responses := s.responses ++ [⟨code, .none⟩] }

/-- The first `k` of the events a frame puts on the OUT port (R170, R251). -/
def firstEvents (k : Nat) (bytes : List Byte) : List WireEvent :=
  List.take k ([.assertReady] ++ bytes.map .write ++ [.flush, .deassertReady])

/-- The code column of R210. -/
def faultNumber : FaultCode → BitVec 4
  | .none => 0x0#4
  | .illegalOpcode => 0x1#4
  | .reservedBits => 0x2#4
  | .seedLength => 0x3#4
  | .cmdLength => 0x4#4
  | .coordRange => 0x5#4
  | .lockedWrite => 0x6#4
  | .undefinedRead => 0x7#4
  | .nextNotClear => 0x8#4
  | .swapOrder => 0x9#4

/-- The numbers of LAST_XFER (R30). -/
def xferNumber : Xfer → BitVec 2
  | .ok => 0#2
  | .deviceNotFound => 1#2
  | .transportTimeout => 2#2
  | .transportIoError => 3#2

/-- The operation code w[31:28] as a number (R70). -/
def opNumber (w : Word) : Nat := w.toNat / 2 ^ 28

/-- The payload bytes a word asks for (R73): LEN = w[10:0] for operation codes 5 and 9, else none. -/
def lenAsked (w : Word) : Nat := if opNumber w = 5 ∨ opNumber w = 9 then w.toNat % 2 ^ 11 else 0

/-- The must-be-zero masks of R78 for each operation code of R76. -/
def reservedTable : List (Nat × Word) :=
  [(1, 0x000003FF#32), (2, 0x000003FF#32), (3, 0x07FFFFFF#32), (4, 0x07FFFFFF#32), (5, 0x0FFFF800#32), (6, 0x0FFFFFFF#32),
    (7, 0x0FFFFFFF#32), (8, 0x0FFFFFFF#32), (9, 0x0FFFF800#32), (10, 0x0FFFFFFF#32), (11, 0x07FFFFFF#32)]

/-- The opcode table: for each row its opcode, match and mask (R76). -/
def opcodeTable : List (Opcode × Word × Word) :=
  [(.GET, 0x10000000#32, 0xF00003FF#32), (.SET, 0x20000000#32, 0xF00003FF#32), (.CLEAR, 0x30000000#32, 0xF7FFFFFF#32),
    (.RDBYTES, 0x40000000#32, 0xF7FFFFFF#32), (.LDSEED, 0x50000000#32, 0xFFFFF800#32), (.STEP, 0x60000000#32, 0xFFFFFFFF#32),
    (.SWAP, 0x70000000#32, 0xFFFFFFFF#32), (.SENDF, 0x80000000#32, 0xFFFFFFFF#32), (.SENDC, 0x90000000#32, 0xFFFFF800#32),
    (.SENDINIT, 0xA0000000#32, 0xFFFFFFFF#32), (.RDSTAT, 0xB0000000#32, 0xF7FFFFFF#32)]

end Sys2Proof.Machine
end

