-- ==== Sys2Proof/Certificates/Slice0/Obligations.lean ====
section
/-! DEFINITION. The statements for the provers. Each docstring names the rule of spec/ it formalises. Where a statement says
`{ s with … }`, every field not named is unchanged: that is its frame. -/

open Sys2Proof Sys2Proof.Machine

/-! ### Encoding -/

/-- R70 to R76: decoding the word and the payload of an operation gives it back, with every operand at every value. -/
def Obligations.DecodeInvertsEncode : Prop :=
  ∀ i : Instr, i.wellFormed = true → decode (encode i) i.payload = .ok i

/-- R70 to R76: a command record that decodes is the word and the payload of the operation it decodes to, so no operation
has two words. -/
def Obligations.EncodeInvertsDecode : Prop :=
  ∀ (w : Word) (p : List Byte) (i : Instr),
    decode w p = .ok i → encode i = w ∧ i.payload = p ∧ i.wellFormed = true

/-- R76: a word selects an operation exactly when `w & mask = match`; a word whose operation code names an operation and
that fails the mask has nonzero reserved bits. -/
def Obligations.WordSelectsByMaskAndMatch : Prop :=
  ∀ (w : Word) (p : List Byte), p.length = lenAsked w → ∀ row ∈ opcodeTable,
    (w &&& row.2.2 = row.2.1 ↔ ∃ i, decode w p = .ok i ∧ i.opcode = row.1) ∧
      (opNumber w = opNumber row.2.1 → w &&& row.2.2 ≠ row.2.1 → decode w p = .error .reservedBits)

/-- R84: the worked encodings, as words written out from the spec. -/
def Obligations.WorkedWordsDecode : Prop :=
  decode 0x17FFFC00#32 [] = .ok (.get .cur (-1) (-1)) ∧
    decode 0x1A010000#32 [] = .ok (.get .nxt 128 64) ∧
    decode 0x20143400#32 [] = .ok (.set .cur 5 13) ∧
    decode 0x38000000#32 [] = .ok (.clear .nxt) ∧
    decode 0x30000000#32 [] = .ok (.clear .cur) ∧
    decode 0x40000000#32 [] = .ok (.rdbytes .cur) ∧
    (∀ p : List Byte, p.length = 1024 → decode 0x50000400#32 p = .ok (.ldseed p)) ∧
    decode 0x60000000#32 [] = .ok .step ∧
    decode 0x70000000#32 [] = .ok .swap ∧
    decode 0x80000000#32 [] = .ok .sendf ∧
    (∀ p : List Byte, p.length = 11 → decode 0x9000000B#32 p = .ok (.sendc p)) ∧
    decode 0xA0000000#32 [] = .ok .sendinit ∧
    decode 0xB0000000#32 [] = .ok (.rdstat .status) ∧
    decode 0xB8000000#32 [] = .ok (.rdstat .fault)

/-- R71: the role is bit 27, X the two's complement value of bits 26..18 and Y that of bits 17..10; bits 9..0 are zero. -/
def Obligations.CoordinatesAreSignExtended : Prop :=
  ∀ (w : Word) (r : Role) (x : BitVec 9) (y : BitVec 8),
    decode w [] = .ok (.get r x y) ∨ decode w [] = .ok (.set r x y) →
      (r = .nxt ↔ w.toNat / 2 ^ 27 % 2 = 1) ∧
      x.toInt = (w.toNat / 2 ^ 18 % 2 ^ 9 : Nat) - (if w.toNat / 2 ^ 26 % 2 = 1 then 512 else 0) ∧
      y.toInt = (w.toNat / 2 ^ 10 % 2 ^ 8 : Nat) - (if w.toNat / 2 ^ 17 % 2 = 1 then 256 else 0) ∧
      w.toNat % 2 ^ 10 = 0

/-- R82: the assembler encodes coordinates as given and refuses exactly those that do not fit their fields. -/
def Obligations.AssemblerKeepsCoordinates : Prop :=
  ∀ (r : Role) (x y : Int),
    (∀ i, assemble (.get r x y) = some i → ∃ x' y', i = .get r x' y' ∧ x'.toInt = x ∧ y'.toInt = y) ∧
    (∀ i, assemble (.set r x y) = some i → ∃ x' y', i = .set r x' y' ∧ x'.toInt = x ∧ y'.toInt = y) ∧
    (assemble (.get r x y) = none ↔ ¬ (-256 ≤ x ∧ x ≤ 255 ∧ -128 ≤ y ∧ y ≤ 127)) ∧
    (assemble (.set r x y) = none ↔ ¬ (-256 ≤ x ∧ x ≤ 255 ∧ -128 ≤ y ∧ y ≤ 127))

/-- R52: the map from cells to (byte, bit) pairs is a bijection. -/
def Obligations.LayoutIsBijection : Prop :=
  (∀ x y, x < 128 → y < 64 → byteIndex x y < 1024 ∧ bitIndex y < 8) ∧
    ∀ i b, i < 1024 → b < 8 → ∃ x y, (x < 128 ∧ y < 64 ∧ byteIndex x y = i ∧ bitIndex y = b) ∧
      ∀ x' y', x' < 128 → y' < 64 → byteIndex x' y' = i → bitIndex y' = b → x' = x ∧ y' = y

/-! ### The step and its stops -/

/-- R58, R212: when the pending record decodes to an operation, the step is that operation's, on the state in which the
record is taken from the CMD port and its transport answer stands at the XR input. -/
def Obligations.StepRunsDecodedOperation : Prop :=
  ∀ (s : State) (c : Command) (rest : List Input) (i : Instr),
    s.inputs = .command c :: rest → decode c.word c.payload = .ok i →
      step s = exec i { s with inputs := rest, xfer := c.xfer }

/-- A command record has the stuck state `waitingForPayload` as its step exactly when its payload length differs from LEN,
whatever the word's reserved bits, its format and the fault state. This is the model's reading of R73, R80 and R81: that the
wait is a stuck state of its own name is log entry 5, and that the payload is settled before every other check is log entry
6. -/
def Obligations.ShortPayloadWaits : Prop :=
  ∀ (s : State) (c : Command) (rest : List Input), s.inputs = .command c :: rest →
    (step s = .fault .waitingForPayload ↔ c.payload.length ≠ lenAsked c.word) ∧
      (c.payload.length = lenAsked c.word → ∃ t, step s = .next t)

/-- The step stops nowhere but where it waits for a command or for payload bytes, and it refuses nothing. This is the model's
choice among the four stalls that R225 lists: these two are stuck states (log entry 5), and the waits for the transport and
for the settle interval are left out with time (log entry 11). -/
def Obligations.StopsOnlyToWait : Prop :=
  ∀ s : State,
    (step s = .fault .waitingForCommand ↔ s.inputs = []) ∧
      (∀ r, step s ≠ .refused r) ∧
      (step s = .fault .waitingForPayload →
        ∃ c rest, s.inputs = .command c :: rest ∧ c.payload.length ≠ lenAsked c.word)

/-- R74: every accepted command word produces exactly one response. Its code is one of the six of the table, each given where
the table says; its data is present only with OK, of the type the operation has. -/
def Obligations.OneResponsePerCommand : Prop :=
  ∀ (s t : State) (c : Command) (rest : List Input), s.inputs = .command c :: rest → step s = .next t →
    ∃ r : Response, t.responses = s.responses ++ [r] ∧
      r.code.byte ∈ [0x00#8, 0x01#8, 0x02#8, 0x10#8, 0x11#8, 0x12#8] ∧
      (r.code.byte ≠ 0x00#8 → r.data = .none) ∧
      (r.code.byte = 0x00#8 →
        ∃ i, decode c.word c.payload = .ok i ∧ dataFits i r.data ∧ t.faulted = s.faulted ∧
          (emitsFrame i = true → c.xfer.result = .ok)) ∧
      (r.code.byte = 0x01#8 → s.faulted = false ∧ t.faulted = true) ∧
      (r.code.byte = 0x02#8 →
        s.faulted = true ∧ t = { s with inputs := rest, xfer := c.xfer, responses := s.responses ++ [r] }) ∧
      (r.code.byte ∈ [0x10#8, 0x11#8, 0x12#8] →
        ∃ i, decode c.word c.payload = .ok i ∧ emitsFrame i = true ∧ r.code.byte = xferByte c.xfer.result)

/-! ### Reset -/

/-- R38: power-on and RST leave every field at the value of the table. FB is unspecified there, and unreadable because
DEF = 0. READY is de-asserted after RST where it is between operations, as it always is (R32, StepKeepsInvariants). -/
def Obligations.ResetValues : Prop :=
  State.reset.atReset ∧
    ∀ (s : State) (rest : List Input), s.inputs = .rst :: rest → readyAfter false s.wire = false →
      ∃ t, step s = .next t ∧ t.atReset

/-- RST between operations takes the RST from the inputs and keeps the configuration, the responses given, and what the OUT
port and the display have had (the model's choice, log entries 4, 8 and 9); the block then takes the next input (R250). -/
def Obligations.RstKeepsRecords : Prop :=
  ∀ (s : State) (rest : List Input), s.inputs = .rst :: rest → ∃ t, step s = .next t ∧
    t.inputs = rest ∧ t.cfg = s.cfg ∧ t.responses = s.responses ∧ t.received = s.received ∧ t.wire = s.wire

/-- RST during an operation (R251) leaves the reset state and gives no response, so no partial effect survives.

Where the operation would have emitted a frame, the OUT port has the first `k` of that frame's events and then READY
de-asserted, and the display has received a part of the bytes written so far, from the front; every part of the frame is
received for some `k`. Where it would have emitted none (it emits no frame, it faults, it is rejected, or it waits for its
payload), the OUT port and what the display received stay as they were.

The model's choices in it: the configuration is kept (log entry 4), the responses given (log entry 8) and what the OUT port and
the display have had (log entry 9), and how far the frame had gone is an input, with nothing recorded where no event had
happened (log entry 10). -/
def Obligations.RstAbortsOperation : Prop :=
  (∀ (s : State) (c : Command) (k n : Nat) (rest : List Input), s.inputs = .rstDuring c k n :: rest →
    readyAfter false s.wire = false →
      ∃ t, step s = .next t ∧ t.atReset ∧ t.inputs = rest ∧ t.cfg = s.cfg ∧ t.responses = s.responses) ∧
  (∀ (s u : State) (c : Command) (rest : List Input) (f : FrameRecord),
    step { s with inputs := .command c :: rest } = .next u → u.outLog = s.outLog ++ [f] →
      (∀ k n, ∃ t, step { s with inputs := .rstDuring c k n :: rest } = .next t ∧
        t.wire = s.wire ++ firstEvents k f.bytes ++
          (if readyAfter false (firstEvents k f.bytes) = true then [.deassertReady] else []) ∧
        (if k = 0 then t.received = s.received
         else ∃ m, m ≤ k - 1 ∧ t.received = s.received ++ [f.bytes.take m])) ∧
      (∀ m, m ≤ f.bytes.length → ∃ k n t, step { s with inputs := .rstDuring c k n :: rest } = .next t ∧
        t.received = s.received ++ [f.bytes.take m])) ∧
  ∀ (s : State) (c : Command) (rest : List Input),
    (∀ u, step { s with inputs := .command c :: rest } = .next u → u.outLog = s.outLog) →
      ∀ k n, ∃ t, step { s with inputs := .rstDuring c k n :: rest } = .next t ∧ t.wire = s.wire ∧ t.received = s.received

/-! ### Invariants -/

/-- Every invariant of the model holds after power-on. -/
def Obligations.InvariantsAtReset : Prop := State.reset.Inv

/-- Every step keeps the invariants of the model: the canonical form of the framebuffers, the fault fields (R29), the lock
(R41), SENT, the frames of OUT_LOG (R174), LAST_XFER (R30) and the order of the OUT port (R176). -/
def Obligations.StepKeepsInvariants : Prop :=
  ∀ s t : State, s.Inv → step s = .next t → t.Inv

/-- R41, by itself: while STEPPED = 1 both buffers are defined and FB[nxt] = Life(FB[cur]). -/
def Obligations.StepKeepsLock : Prop :=
  ∀ s t : State, s.lockOk → step s = .next t → t.lockOk

/-! ### Faults -/

/-- R213: a fault writes FAULTED, FAULT_CODE and FAULTWORD (the command word), gives the response FAULT, and changes nothing
else. -/
def Obligations.FaultEntryIsPrecise : Prop :=
  ∀ (s t : State) (c : Command) (rest : List Input), s.inputs = .command c :: rest → s.faulted = false →
    step s = .next t → t.faulted = true →
      ∃ code, code ≠ .none ∧ t = faultState { s with inputs := rest, xfer := c.xfer } code c.word

/-- R77: the operation codes 0x0, 0xC, 0xD, 0xE and 0xF raise ILLEGAL_OPCODE (code 0x1) and have no other effect. -/
def Obligations.IllegalOpcodeFaults : Prop :=
  ∀ (s : State) (c : Command) (rest : List Input), s.inputs = .command c :: rest → s.faulted = false → c.payload = [] →
    opNumber c.word ∈ [0x0, 0xC, 0xD, 0xE, 0xF] →
      step s = .next (faultState { s with inputs := rest, xfer := c.xfer } .illegalOpcode c.word) ∧
        FaultCode.illegalOpcode.code = 0x1#4

/-- R78: a legal operation code with a 1 in a must-be-zero bit of its format raises RESERVED_BITS (code 0x2). -/
def Obligations.ReservedBitsFault : Prop :=
  ∀ (s : State) (c : Command) (rest : List Input), s.inputs = .command c :: rest → s.faulted = false →
    c.payload.length = lenAsked c.word → ∀ row ∈ reservedTable, opNumber c.word = row.1 → c.word &&& row.2 ≠ 0#32 →
      step s = .next (faultState { s with inputs := rest, xfer := c.xfer } .reservedBits c.word) ∧
        FaultCode.reservedBits.code = 0x2#4

/-- R210, R211, R212: outside the fault state an operation raises a fault exactly when its cause holds and no cause with a
lower code does; when no cause holds it completes without one. -/
def Obligations.FaultIsLowestCause : Prop :=
  ∀ (i : Instr) (s : State), s.faulted = false →
    (∀ code, exec i s = .next (faultState s code (encode i)) ↔
      causeHolds i s code ∧ ∀ low, (faultNumber low).toNat < (faultNumber code).toNat → ¬ causeHolds i s low) ∧
    ((∀ code, ¬ causeHolds i s code) → ∃ t, exec i s = .next t ∧ t.faulted = false)

/-- R214: while FAULTED = 1 every command word but 0xB0000000 and 0xB8000000 is REJECTED with no effect at all, and those
two read the status and the fault word. -/
def Obligations.FaultStateIsSticky : Prop :=
  ∀ (s : State) (c : Command) (rest : List Input), s.inputs = .command c :: rest → s.faulted = true →
    c.payload.length = lenAsked c.word →
      step s = .next { s with
        inputs := rest
        xfer := c.xfer
        responses := s.responses ++
          [if c.word = 0xB0000000#32 then ⟨.ok, .word s.status⟩
           else if c.word = 0xB8000000#32 then ⟨.ok, .word s.faultWord⟩
           else ⟨.rejected, .none⟩] }

/-- R215: whatever commands come, the fault fields describe the first fault until RST, and neither buffer, no role and no
frame changes. -/
def Obligations.FirstFaultIsKept : Prop :=
  ∀ (n : Nat) (s t : State), s.faulted = true → (∀ i ∈ s.inputs, ∃ c, i = .command c) →
    Host.Core.run Sys2Proof.core n s = .next t →
      t.faulted = true ∧ t.faultCode = s.faultCode ∧ t.faultWord = s.faultWord ∧ t.fb0 = s.fb0 ∧ t.fb1 = s.fb1 ∧
        t.curPhys = s.curPhys ∧ t.outLog = s.outLog

/-! ### What operations may change -/

/-- R24, R26, R27: CUR_PHYS changes only by SWAP; STEPPED is set only by STEP and cleared only by SWAP; SENT is set only by
a SENDF whose result is OK and cleared only by SWAP. -/
def Obligations.SequencingFlagsChange : Prop :=
  ∀ (i : Instr) (s t : State), exec i s = .next t →
    (t.curPhys ≠ s.curPhys → i = .swap) ∧
      (s.stepped = false → t.stepped = true → i = .step) ∧ (s.stepped = true → t.stepped = false → i = .swap) ∧
      (s.sent = false → t.sent = true → i = .sendf ∧ s.xfer.result = .ok) ∧
      (s.sent = true → t.sent = false → i = .swap)

/-- R22: no operation sets a DEF flag to 0; only CLEAR sets that of its buffer to 1, and LDSEED that of current. -/
def Obligations.DefFlagsOnlyRise : Prop :=
  ∀ (i : Instr) (s t : State) (p : Buf), exec i s = .next t →
    (s.defd p = true → t.defd p = true) ∧
      (s.defd p = false → t.defd p = true →
        (∃ r, i = .clear r ∧ p = s.phys r) ∨ (∃ bs, i = .ldseed bs ∧ p = s.phys .cur))

/-- R31: appending is the only change of OUT_LOG, made by the operations that emit a frame, with the transfer result. -/
def Obligations.OutLogOnlyGrows : Prop :=
  ∀ (i : Instr) (s t : State), exec i s = .next t →
    t.outLog = s.outLog ∨ ∃ kind bytes, t.outLog = s.outLog ++ [⟨kind, bytes, s.xfer.result⟩] ∧
      ((kind = .data ∧ i = .sendf) ∨ (kind = .cmd ∧ (i = .sendinit ∨ ∃ p, i = .sendc p)))

/-- R174: every frame the block emits begins with 0x78, and its second byte is 0x00 for a command frame and 0x40 for a data
frame. -/
def Obligations.FrameHeaders : Prop :=
  ∀ (i : Instr) (s t : State) (f : FrameRecord), exec i s = .next t → t.outLog = s.outLog ++ [f] →
    f.bytes[0]? = some 0x78#8 ∧ f.bytes[1]? = some (if f.kind = .data then 0x40#8 else 0x00#8)

/-- R103: no operation changes a single bit from 1 to 0; a live cell dies only by CLEAR or LDSEED. STEP writes next only
where no cell lives. -/
def Obligations.NoSingleBitCleared : Prop :=
  ∀ (i : Instr) (s t : State) (p : Buf) (x y : Nat), s.fbsWf → exec i s = .next t → x < 128 → y < 64 →
    cell (s.fb p) x y = true → cell (t.fb p) x y = false → (∃ r, i = .clear r) ∨ (∃ bs, i = .ldseed bs)

/-- R26, R59, R257: between a STEP and the SWAP no operation changes a byte of either buffer, and SET, CLEAR and LDSEED
fault. -/
def Obligations.LockedBuffersUnchanged : Prop :=
  ∀ (i : Instr) (s t : State), s.lockOk → s.stepped = true → s.faulted = false → exec i s = .next t →
    t.fb0 = s.fb0 ∧ t.fb1 = s.fb1 ∧
      (((∃ r x y, i = .set r x y) ∨ (∃ r, i = .clear r) ∨ (∃ bs, i = .ldseed bs)) → t.faulted = true)

/-! ### The framebuffer operations -/

/-- R100, R101: on [-1, 128] × [-1, 64] GET answers the cell at the coordinates taken modulo 128 and 64, and changes no
state. -/
def Obligations.GetReadsWrappedCell : Prop :=
  ∀ (r : Role) (x : BitVec 9) (y : BitVec 8) (s : State), s.faulted = false →
    -1 ≤ x.toInt → x.toInt ≤ 128 → -1 ≤ y.toInt → y.toInt ≤ 64 → s.defd (s.phys r) = true →
      exec (.get r x y) s = .next { s with
        responses := s.responses ++ [⟨.ok, .bit (BitVec.ofNat 1
          (((s.fb (s.phys r)).read (((y.toInt % 64).toNat >>> 3) * 128 + (x.toInt % 128).toNat)).toNat >>>
            ((y.toInt % 64).toNat &&& 7) &&& 1))⟩] }

/-- R108: on a defined buffer, GET of a cell one unit outside the grid does what GET of the cell on the opposite edge does, on
each axis. -/
def Obligations.GetIsToroidal : Prop :=
  ∀ (r : Role) (s : State), s.defd (s.phys r) = true →
    (∀ y : BitVec 8, 0 ≤ y.toInt → y.toInt < 64 →
      exec (.get r (BitVec.ofInt 9 (-1)) y) s = exec (.get r (BitVec.ofInt 9 127) y) s ∧
        exec (.get r (BitVec.ofInt 9 128) y) s = exec (.get r (BitVec.ofInt 9 0) y) s) ∧
    (∀ x : BitVec 9, 0 ≤ x.toInt → x.toInt < 128 →
      exec (.get r x (BitVec.ofInt 8 (-1))) s = exec (.get r x (BitVec.ofInt 8 63)) s ∧
        exec (.get r x (BitVec.ofInt 8 64)) s = exec (.get r x (BitVec.ofInt 8 0)) s)

/-- R102: outside the lock SET ORs the bit of its cell into its byte; every other byte of the buffer reads as before, and
nothing else changes, DEF among it. -/
def Obligations.SetWritesOneBit : Prop :=
  ∀ (r : Role) (x : BitVec 9) (y : BitVec 8) (s : State), s.faulted = false → s.stepped = false →
    0 ≤ x.toInt → x.toInt < 128 → 0 ≤ y.toInt → y.toInt < 64 → s.fbsWf →
      ∃ m : Memory, exec (.set r x y) s = .next { s.setFb (s.phys r) m with responses := s.responses ++ [⟨.ok, .none⟩] } ∧
        ∀ a, m.read a =
          if a = (y.toInt.toNat >>> 3) * 128 + x.toInt.toNat then
            (s.fb (s.phys r)).read a ||| (1#8 <<< (y.toInt.toNat &&& 7))
          else (s.fb (s.phys r)).read a

/-- R107: a cell set once or more reads 1. -/
def Obligations.SetThenGetReadsOne : Prop :=
  ∀ (r : Role) (x y n : Nat) (s : State), x < 128 → y < 64 → s.faulted = false → s.stepped = false →
    s.defd (s.phys r) = true → s.fbsWf →
      ∃ t, execAll (List.replicate (n + 1) (.set r (BitVec.ofNat 9 x) (BitVec.ofNat 8 y)) ++
          [.get r (BitVec.ofNat 9 x) (BitVec.ofNat 8 y)]) s = .next t ∧
        t.responses = s.responses ++ List.replicate (n + 1) ⟨.ok, .none⟩ ++ [⟨.ok, .bit 1#1⟩]

/-- R104: outside the lock CLEAR makes every byte of its buffer 0x00 and its DEF flag 1, and changes nothing else. -/
def Obligations.ClearZeroesBuffer : Prop :=
  ∀ (r : Role) (s : State), s.faulted = false → s.stepped = false →
    ∃ m : Memory, exec (.clear r) s =
        .next { (s.setFb (s.phys r) m).setDef (s.phys r) with responses := s.responses ++ [⟨.ok, .none⟩] } ∧
      ∀ a, m.read a = 0x00#8

/-- R105: RDBYTES answers the 1024 bytes of a defined buffer in index order, and changes no state. -/
def Obligations.RdbytesReturnsBuffer : Prop :=
  ∀ (r : Role) (s : State), s.faulted = false → s.defd (s.phys r) = true →
    ∃ bs : List Byte, exec (.rdbytes r) s = .next { s with responses := s.responses ++ [⟨.ok, .bytes bs⟩] } ∧
      bs.length = 1024 ∧ ∀ k, k < 1024 → bs[k]? = some ((s.fb (s.phys r)).read k)

/-- R106, R65: outside the lock LDSEED with 1024 bytes puts payload byte k at index k of current and sets its DEF flag; the
next buffer and everything else stay. -/
def Obligations.LdseedLoadsCurrent : Prop :=
  ∀ (p : List Byte) (s : State), s.faulted = false → s.stepped = false → p.length = 1024 →
    ∃ m : Memory, exec (.ldseed p) s =
        .next { (s.setFb (s.phys .cur) m).setDef (s.phys .cur) with responses := s.responses ++ [⟨.ok, .none⟩] } ∧
      ∀ k, k < 1024 → some (m.read k) = p[k]?

/-- R65, R106, R105: what LDSEED loads, RDBYTES of current reads back. -/
def Obligations.SeedReadsBack : Prop :=
  ∀ (p : List Byte) (s : State), s.faulted = false → s.stepped = false → p.length = 1024 →
    ∃ t, execAll [.ldseed p, .rdbytes .cur] s = .next t ∧
      t.responses = s.responses ++ [⟨.ok, .none⟩, ⟨.ok, .bytes p⟩]

/-! ### The Life engine -/

/-- R140 to R143: where current is defined and next defined and all zero, STEP makes each cell of next live exactly when it
has three live neighbours on the torus, or two and is live itself; STEPPED becomes 1, and nothing else changes, current
among it. -/
def Obligations.StepComputesNextGeneration : Prop :=
  ∀ s : State, s.faulted = false → s.defd (s.phys .cur) = true → s.defd (s.phys .nxt) = true →
    (∀ a, a < 1024 → (s.fb (s.phys .nxt)).read a = 0x00#8) →
      ∃ m : Memory, exec .step s =
          .next { s.setFb (s.phys .nxt) m with stepped := true, responses := s.responses ++ [⟨.ok, .none⟩] } ∧
        ∀ x y : Int, torusCell m x y =
          decide (torusCount (s.fb (s.phys .cur)) x y = 3 ∨
            (torusCell (s.fb (s.phys .cur)) x y = true ∧ torusCount (s.fb (s.phys .cur)) x y = 2))

/-- R145: the generation STEP computes depends on the bytes of current and on nothing else of the state. -/
def Obligations.StepDependsOnCurrentOnly : Prop :=
  ∀ s s' t t' : State, exec .step s = .next t → exec .step s' = .next t' → s.faulted = false → s'.faulted = false →
    t.faulted = false → t'.faulted = false →
    (∀ a, a < 1024 → (s.fb (s.phys .cur)).read a = (s'.fb (s'.phys .cur)).read a) →
      t.fb (t.phys .nxt) = t'.fb (t'.phys .nxt)

/-- R144: the generation computed eight cells at a time from a window of three pages, by bitwise adders, is Life(F). -/
def Obligations.ParallelLifeEqualsLife : Prop := ∀ m : Memory, parallelLife m = life m

/-- R143: Life has no special case at an edge: moving a pattern on the torus and then computing a generation is computing
the generation and then moving it. -/
def Obligations.LifeCommutesWithMoves : Prop :=
  ∀ (m n : Memory) (a b : Int), (∀ x y, torusCell n x y = torusCell m (x - a) (y - b)) →
    ∀ x y, torusCell (life n) x y = torusCell (life m) (x - a) (y - b)

/-- R150, R151: after a STEP, and a SENDF with result OK where the configuration asks for one, SWAP exchanges the roles,
clears STEPPED and SENT, and changes nothing else: each role is on the other's buffer. -/
def Obligations.SwapExchangesRoles : Prop :=
  ∀ s : State, s.faulted = false → s.stepped = true → (s.sent = true ∨ s.cfg.swapNeedsSend = false) →
    ∃ t, exec .swap s = .next t ∧
      t = { s with curPhys := t.curPhys, stepped := false, sent := false, responses := s.responses ++ [⟨.ok, .none⟩] } ∧
      t.fb (t.phys .cur) = s.fb (s.phys .nxt) ∧ t.fb (t.phys .nxt) = s.fb (s.phys .cur) ∧
      t.defd (t.phys .cur) = s.defd (s.phys .nxt) ∧ t.defd (t.phys .nxt) = s.defd (s.phys .cur) ∧ t.curPhys ≠ s.curPhys

/-- R153: a STEP right after a SWAP faults with NEXT_NOT_CLEAR unless the previous generation was empty. -/
def Obligations.StepAfterSwapNeedsClear : Prop :=
  ∀ s t : State, s.faulted = false → s.lockOk → exec .swap s = .next t → t.faulted = false →
    (exec .step t = .next (faultState t .nextNotClear 0x60000000#32) ↔
      ∃ a, a < 1024 ∧ (s.fb (s.phys .cur)).read a ≠ 0x00#8)

/-- R154: `SWAP` ; `CLEAR nxt` leaves what the source's copy of next into current and clear of next leaves, but for which
physical buffer has which role. -/
def Obligations.SwapClearIsCopyClear : Prop :=
  ∀ s : State, s.faulted = false → s.stepped = true → (s.sent = true ∨ s.cfg.swapNeedsSend = false) →
    s.defd (s.phys .cur) = true → s.defd (s.phys .nxt) = true →
      execAll [.swap, .clear .nxt] s = .next (State.renamed
        { (s.setFb (s.phys .cur) (s.fb (s.phys .nxt))).setFb (s.phys .nxt) (Memory.ofBytes (List.replicate 1024 0x00#8)) with
          stepped := false, sent := false, responses := s.responses ++ [⟨.ok, .none⟩, ⟨.ok, .none⟩] })

/-- R40, R154: which physical buffer has which role shows in no operation but RDSTAT of STATUS. -/
def Obligations.RolesHidePhysicalBuffers : Prop :=
  ∀ (i : Instr) (s t : State), i ≠ .rdstat .status → exec i s = .next t → exec i s.renamed = .next t.renamed

/-- R155: four generations by GEN, or by GENQ where SWAP needs no send, move the glider G0 by (1, 1), wherever on the torus
it stands. Every operation of them completes: each answers OK, and the block is ready for the next generation, with the roles
as they were. -/
def Obligations.GliderMovesByOne : Prop :=
  ∀ (s : State) (a b : Int), s.ready → holdsExactly (s.fb (s.phys .cur)) (moved a b glider) →
    (s.xfer.result = .ok → ∃ t, execAll (gen ++ gen ++ gen ++ gen) s = .next t ∧
      holdsExactly (t.fb (t.phys .cur)) (moved (a + 1) (b + 1) glider) ∧ t.ready ∧ t.curPhys = s.curPhys ∧
      t.responses = s.responses ++ List.replicate 16 ⟨.ok, .none⟩) ∧
    (s.cfg.swapNeedsSend = false → ∃ t, execAll (genq ++ genq ++ genq ++ genq) s = .next t ∧
      holdsExactly (t.fb (t.phys .cur)) (moved (a + 1) (b + 1) glider) ∧ t.ready ∧ t.curPhys = s.curPhys ∧
      t.responses = s.responses ++ List.replicate 12 ⟨.ok, .none⟩)

/-- R156: a 2×2 block anywhere on the torus is unchanged by every number of generations, by GEN or by GENQ where SWAP needs no
send. Every operation of them completes: each answers OK, the roles have changed n mod 2 times, and the block is ready for the
next generation. -/
def Obligations.BlockIsStill : Prop :=
  ∀ (s : State) (a b : Int) (n : Nat), s.ready → holdsExactly (s.fb (s.phys .cur)) (moved a b block) →
    (s.xfer.result = .ok → ∃ t, execAll (List.replicate n gen).flatten s = .next t ∧
      holdsExactly (t.fb (t.phys .cur)) (moved a b block) ∧ t.ready ∧
      t.curPhys = (if n % 2 = 0 then s.curPhys else s.curPhys.other) ∧
      t.responses = s.responses ++ List.replicate (4 * n) ⟨.ok, .none⟩) ∧
    (s.cfg.swapNeedsSend = false → ∃ t, execAll (List.replicate n genq).flatten s = .next t ∧
      holdsExactly (t.fb (t.phys .cur)) (moved a b block) ∧ t.ready ∧
      t.curPhys = (if n % 2 = 0 then s.curPhys else s.curPhys.other) ∧
      t.responses = s.responses ++ List.replicate (3 * n) ⟨.ok, .none⟩)

/-- R254: after BOOT and n times GEN with result OK, current holds Life^n of the seed, next is all zero, STEPPED and SENT
are 0, CUR_PHYS has changed n mod 2 times, and the data frames sent are those of generations 0 to n-1. It holds from every
state outside the fault state and the lock with SENT = 0, the state after reset among them. -/
def Obligations.GenerationSequence : Prop :=
  ∀ (seed : List Byte) (n : Nat) (s : State), seed.length = 1024 → s.faulted = false → s.stepped = false →
    s.sent = false → s.xfer.result = .ok →
      ∃ t, execAll (boot seed ++ (List.replicate n gen).flatten) s = .next t ∧
        t.fb (t.phys .cur) = lifeIter n (Memory.ofBytes seed) ∧ t.ready ∧ t.sent = false ∧
        t.curPhys = (if n % 2 = 0 then s.curPhys else s.curPhys.other) ∧
        t.outLog = s.outLog ++
          [⟨.cmd, [0x78#8, 0x00#8, 0xA8#8, 0x3F#8, 0x8D#8, 0x14#8, 0x20#8, 0x00#8, 0xC8#8, 0xA1#8, 0xDA#8, 0x12#8, 0xAF#8],
            .ok⟩] ++
          (List.range n).map fun k => ⟨.data, [0x78#8, 0x40#8] ++
            (List.range 1024).map (lifeIter k (Memory.ofBytes seed)).read, .ok⟩

/-! ### The frame encoder -/

/-- R171, R172, R178, R170: SENDF of a defined current buffer emits 1026 bytes, 0x78, 0x40 and the buffer's bytes unchanged;
SENT becomes 1 only when the result is OK; the response is the transfer result; the OUT port sees READY, the bytes in order,
flush and READY de-asserted; nothing else changes. -/
def Obligations.SendfEmitsCurrent : Prop :=
  ∀ s : State, s.faulted = false → s.defd (s.phys .cur) = true →
    ∃ bytes part code, exec .sendf s =
        .next { frameState s .data bytes part code with sent := s.sent || decide (s.xfer.result = .ok) } ∧
      bytes.length = 1026 ∧ bytes[0]? = some 0x78#8 ∧ bytes[1]? = some 0x40#8 ∧
      (∀ k, k < 1024 → bytes[k + 2]? = some ((s.fb (s.phys .cur)).read k)) ∧
      partOfFrame s.xfer bytes part ∧ code.byte = xferByte s.xfer.result

/-- R180, R173, R65: SENDC of 1 to 2047 bytes emits 0x78, 0x00 and those bytes unchanged; the response is the transfer
result; nothing else changes. -/
def Obligations.SendcEmitsPayload : Prop :=
  ∀ (p : List Byte) (s : State), s.faulted = false → 1 ≤ p.length → p.length ≤ 2047 →
    ∃ part code, exec (.sendc p) s = .next (frameState s .cmd ([0x78#8, 0x00#8] ++ p) part code) ∧
      partOfFrame s.xfer ([0x78#8, 0x00#8] ++ p) part ∧ code.byte = xferByte s.xfer.result

/-- R182: SENDINIT emits the fixed 13 bytes; the response is the transfer result; nothing else changes. -/
def Obligations.SendinitEmitsInitFrame : Prop :=
  ∀ s : State, s.faulted = false →
    ∃ bytes part code, exec .sendinit s = .next (frameState s .cmd bytes part code) ∧
      bytes = [0x78#8, 0x00#8, 0xA8#8, 0x3F#8, 0x8D#8, 0x14#8, 0x20#8, 0x00#8, 0xC8#8, 0xA1#8, 0xDA#8, 0x12#8, 0xAF#8] ∧
      partOfFrame s.xfer bytes part ∧ code.byte = xferByte s.xfer.result

/-- R152: the frame sent for a generation is the same whether SENDF comes before or after that generation's STEP. -/
def Obligations.SameFrameAroundStep : Prop :=
  ∀ s t u v : State, s.faulted = false → exec .sendf s = .next u → u.faulted = false →
    exec .step s = .next t → t.faulted = false → exec .sendf t = .next v →
      ∃ f, u.outLog = s.outLog ++ [f] ∧ v.outLog = t.outLog ++ [f]

/-! ### The control operation -/

/-- R200, R36, R37: in every state, the fault state among them, RDSTAT answers STATUS with each field at its place and every
reserved bit 0, or the fault word, and changes no state. -/
def Obligations.RdstatReadsRegisters : Prop :=
  ∀ s : State,
    (∃ v : Word, exec (.rdstat .status) s = .next { s with responses := s.responses ++ [⟨.ok, .word v⟩] } ∧
      (v.getLsbD 0 = true ↔ s.curPhys = .b1) ∧ v.getLsbD 1 = s.def0 ∧ v.getLsbD 2 = s.def1 ∧
      (v.getLsbD 3 = true ↔
        s.defd (s.phys .nxt) = true ∧ ∀ a, a < 1024 → (s.fb (s.phys .nxt)).read a = 0x00#8) ∧
      v.getLsbD 4 = s.stepped ∧ v.getLsbD 5 = s.sent ∧ v.getLsbD 6 = s.faulted ∧ v.getLsbD 7 = false ∧
      v.extractLsb' 8 4 = faultNumber s.faultCode ∧ v.extractLsb' 12 2 = xferNumber s.lastXfer ∧
      ∀ k, 14 ≤ k → v.getLsbD k = false) ∧
    exec (.rdstat .fault) s = .next { s with responses := s.responses ++ [⟨.ok, .word s.faultWord⟩] }

/-! ### What cannot be observed -/

/-- R22, R38, R40: the bytes of an undefined buffer reach no response, no frame, no flag and no defined buffer: of two states
that differ only in such bytes, the steps end alike and leave states that differ only in such bytes. So the byte the model
gives an unwritten index (log entry 3) shows nowhere. -/
def Obligations.UndefinedContentsUnobservable : Prop :=
  ∀ s s' : State, s.sameDefined s' →
    (∀ t, step s = .next t → ∃ t', step s' = .next t' ∧ t.sameDefined t') ∧
      (∀ f, step s = .fault f → step s' = .fault f)
end

