-- ==== Sys2Proof/Laws/Decode.lean ====
section
/-! SUPPORT. The fields of the words the encoder makes, and how decoding ends. -/

namespace Sys2Proof

@[simp] theorem Role.ofBit_bit (r : Role) : Role.ofBit r.bit[0] = r := by cases r <;> rfl
@[simp] theorem StatSel.ofBit_bit (s : StatSel) : StatSel.ofBit s.bit[0] = s := by cases s <;> rfl
theorem Role.bit_ofBit (b : Bool) : (Role.ofBit b).bit = BitVec.ofBool b := by cases b <;> rfl
theorem StatSel.bit_ofBit (b : Bool) : (StatSel.ofBit b).bit = BitVec.ofBool b := by cases b <;> rfl

/-! ### The opcode map -/

@[simp] theorem opcodeOf_code (o : Opcode) : opcodeOf o.code = some o := by cases o <;> rfl

/-- Only its own code names an opcode (R76). -/
theorem code_of_opcodeOf : ∀ {op : BitVec 4} {o : Opcode}, opcodeOf op = some o → op = o.code := by
  intro op o h
  have key : ∀ op : BitVec 4, (opcodeOf op).all fun o => decide (op = o.code) := by decide
  have := key op
  simpa [h] using this

/-- The illegal operation codes (R77). -/
theorem opcodeOf_eq_none : ∀ op : BitVec 4,
    opcodeOf op = none ↔ op = 0x0#4 ∨ op = 0xC#4 ∨ op = 0xD#4 ∨ op = 0xE#4 ∨ op = 0xF#4 := by decide

/-! ### The fields of encoded words -/

section
variable (o : Opcode) (r : Role) (x : BitVec 9) (y : BitVec 8) (b : BitVec 1) (p : List Byte)

/-- The bits of a format C word (R70, R71). -/
theorem getLsbD_wordC (k : Nat) : (wordC o r x y).getLsbD k =
    if k < 10 then false else if k < 18 then y.getLsbD (k - 10) else if k < 27 then x.getLsbD (k - 18)
    else if k < 28 then r.bit.getLsbD (k - 27) else o.code.getLsbD (k - 28) := by
  refine (BitVec.getLsbD_append (x := o.code ++ r.bit ++ x ++ y) (y := 0#10)).trans ?_
  rw [BitVec.getLsbD_append (x := o.code ++ r.bit ++ x) (y := y), BitVec.getLsbD_append (x := o.code ++ r.bit) (y := x),
    BitVec.getLsbD_append (x := o.code) (y := r.bit)]
  simp only [BitVec.getLsbD_zero, Nat.sub_sub]
  split_ifs <;> first | rfl | omega

/-- The bits of a format B word (R70, R72). -/
theorem getLsbD_wordB (k : Nat) : (wordB o b).getLsbD k =
    if k < 27 then false else if k < 28 then b.getLsbD (k - 27) else o.code.getLsbD (k - 28) := by
  refine (BitVec.getLsbD_append (x := o.code ++ b) (y := 0#27)).trans ?_
  rw [BitVec.getLsbD_append (x := o.code) (y := b)]
  simp only [BitVec.getLsbD_zero, Nat.sub_sub]
  split_ifs <;> first | rfl | omega

/-- The bits of a format N word (R70, R72). -/
theorem getLsbD_wordN (k : Nat) : (wordN o).getLsbD k = if k < 28 then false else o.code.getLsbD (k - 28) := by
  refine (BitVec.getLsbD_append (x := o.code) (y := 0#28)).trans ?_
  simp

/-- The bits of a format L word (R70, R73). -/
theorem getLsbD_wordL (k : Nat) : (wordL o p).getLsbD k =
    if k < 11 then (BitVec.ofNat 11 p.length).getLsbD k else if k < 28 then false else o.code.getLsbD (k - 28) := by
  refine (BitVec.getLsbD_append (x := o.code ++ 0#17) (y := BitVec.ofNat 11 p.length)).trans ?_
  rw [BitVec.getLsbD_append (x := o.code) (y := 0#17)]
  simp only [BitVec.getLsbD_zero, Nat.sub_sub]
  split_ifs <;> first | rfl | omega

@[simp] theorem opField_wordC : opField (wordC o r x y) = o.code := by
  apply BitVec.eq_of_getLsbD_eq
  intro i hi
  rw [opField, BitVec.getLsbD_extractLsb', getLsbD_wordC]
  simp [hi, show ¬ 28 + i < 10 by omega, show ¬ 28 + i < 18 by omega, show ¬ 28 + i < 27 by omega]

@[simp] theorem selField_wordC : selField (wordC o r x y) = r.bit[0] := by
  rw [selField, getLsbD_wordC]; rfl

@[simp] theorem xField_wordC : xField (wordC o r x y) = x := by
  apply BitVec.eq_of_getLsbD_eq
  intro i hi
  rw [xField, BitVec.getLsbD_extractLsb', getLsbD_wordC]
  simp [hi, show ¬ 18 + i < 10 by omega, show 18 + i < 27 by omega]

@[simp] theorem yField_wordC : yField (wordC o r x y) = y := by
  apply BitVec.eq_of_getLsbD_eq
  intro i hi
  rw [yField, BitVec.getLsbD_extractLsb', getLsbD_wordC]
  simp [hi, show 10 + i < 18 by omega]

theorem wordC_reserved : wordC o r x y &&& Format.C.reservedMask = 0#32 := by
  apply BitVec.eq_of_getLsbD_eq
  intro i hi
  rw [BitVec.getLsbD_and, getLsbD_wordC]
  have mask : ∀ j : Fin 32, Format.C.reservedMask.getLsbD j = decide (j.val < 10) := by decide
  rw [mask ⟨i, hi⟩]
  by_cases h : i < 10 <;> simp [h]

@[simp] theorem opField_wordB : opField (wordB o b) = o.code := by
  apply BitVec.eq_of_getLsbD_eq
  intro i hi
  rw [opField, BitVec.getLsbD_extractLsb', getLsbD_wordB]
  simp [hi, show ¬ 28 + i < 27 by omega]

@[simp] theorem selField_wordB : selField (wordB o b) = b[0] := by
  rw [selField, getLsbD_wordB]; rfl

theorem wordB_reserved : wordB o b &&& Format.B.reservedMask = 0#32 := by
  apply BitVec.eq_of_getLsbD_eq
  intro i hi
  rw [BitVec.getLsbD_and, getLsbD_wordB]
  have mask : ∀ j : Fin 32, Format.B.reservedMask.getLsbD j = decide (j.val < 27) := by decide
  rw [mask ⟨i, hi⟩]
  by_cases h : i < 27 <;> simp [h]

@[simp] theorem opField_wordN : opField (wordN o) = o.code := by cases o <;> rfl

theorem wordN_reserved : wordN o &&& Format.N.reservedMask = 0#32 := by cases o <;> rfl

@[simp] theorem opField_wordL : opField (wordL o p) = o.code := by
  apply BitVec.eq_of_getLsbD_eq
  intro i hi
  rw [opField, BitVec.getLsbD_extractLsb', getLsbD_wordL]
  simp [hi, show ¬ 28 + i < 11 by omega]

theorem lenField_wordL : lenField (wordL o p) = BitVec.ofNat 11 p.length := by
  apply BitVec.eq_of_getLsbD_eq
  intro i hi
  rw [lenField, BitVec.getLsbD_extractLsb', getLsbD_wordL]
  simp [hi]

/-- LEN is the number of payload bytes (R73, R82). -/
theorem lenField_wordL_toNat (h : lenFits p = true) : (lenField (wordL o p)).toNat = p.length := by
  simp only [lenFits, decide_eq_true_eq] at h
  rw [lenField_wordL, BitVec.toNat_ofNat, Nat.mod_eq_of_lt h]

theorem wordL_reserved : wordL o p &&& Format.L.reservedMask = 0#32 := by
  apply BitVec.eq_of_getLsbD_eq
  intro i hi
  rw [BitVec.getLsbD_and, getLsbD_wordL]
  have mask : ∀ j : Fin 32, Format.L.reservedMask.getLsbD j = decide (11 ≤ j.val ∧ j.val < 28) := by decide
  rw [mask ⟨i, hi⟩]
  by_cases h : i < 11
  · simp [h]
  · by_cases h' : i < 28 <;> simp [h, h']

/-! ### A word is made of its fields -/

theorem getLsbD_of_opField {w : Word} {o : Opcode} (h : opField w = o.code) {i : Nat} (h1 : 28 ≤ i) (h2 : i < 32) :
    w.getLsbD i = o.code.getLsbD (i - 28) := by
  rw [← h, opField, BitVec.getLsbD_extractLsb']
  simp [show i - 28 < 4 by omega, show 28 + (i - 28) = i by omega]

theorem getLsbD_of_masked {w m : Word} (h : w &&& m = 0#32) {i : Nat} (hm : m.getLsbD i = true) : w.getLsbD i = false := by
  have := congrArg (fun v => v.getLsbD i) h
  simpa [hm] using this

/-- A format C word with zero reserved bits is made of its fields (R70, R71). -/
theorem wordC_eq {w : Word} {o : Opcode} (h : opField w = o.code) (hm : w &&& Format.C.reservedMask = 0#32) :
    wordC o (Role.ofBit (selField w)) (xField w) (yField w) = w := by
  apply BitVec.eq_of_getLsbD_eq
  intro i hi
  rw [getLsbD_wordC]
  have mask : ∀ j : Fin 32, Format.C.reservedMask.getLsbD j = decide (j.val < 10) := by decide
  split_ifs with h1 h2 h3 h4
  · exact (getLsbD_of_masked hm (by rw [mask ⟨i, hi⟩]; simpa using h1)).symm
  · rw [yField, BitVec.getLsbD_extractLsb']
    simp [show i - 10 < 8 by omega, show 10 + (i - 10) = i by omega]
  · rw [xField, BitVec.getLsbD_extractLsb']
    simp [show i - 18 < 9 by omega, show 18 + (i - 18) = i by omega]
  · have : i = 27 := by omega
    subst this; rw [Role.bit_ofBit]; simp [selField]
  · exact (getLsbD_of_opField h (by omega) hi).symm

/-- A format B word with zero reserved bits is made of its fields (R70, R72). -/
theorem wordB_eq {w : Word} {o : Opcode} (h : opField w = o.code) (hm : w &&& Format.B.reservedMask = 0#32) :
    wordB o (BitVec.ofBool (selField w)) = w := by
  apply BitVec.eq_of_getLsbD_eq
  intro i hi
  rw [getLsbD_wordB]
  have mask : ∀ j : Fin 32, Format.B.reservedMask.getLsbD j = decide (j.val < 27) := by decide
  split_ifs with h1 h2
  · exact (getLsbD_of_masked hm (by rw [mask ⟨i, hi⟩]; simpa using h1)).symm
  · have : i = 27 := by omega
    subst this; simp [selField]
  · exact (getLsbD_of_opField h (by omega) hi).symm

/-- A format N word with zero reserved bits is its operation code (R70, R72). -/
theorem wordN_eq {w : Word} {o : Opcode} (h : opField w = o.code) (hm : w &&& Format.N.reservedMask = 0#32) :
    wordN o = w := by
  apply BitVec.eq_of_getLsbD_eq
  intro i hi
  rw [getLsbD_wordN]
  have mask : ∀ j : Fin 32, Format.N.reservedMask.getLsbD j = decide (j.val < 28) := by decide
  split_ifs with h1
  · exact (getLsbD_of_masked hm (by rw [mask ⟨i, hi⟩]; simpa using h1)).symm
  · exact (getLsbD_of_opField h (by omega) hi).symm

/-- A format L word with zero reserved bits is made of its fields (R70, R73). -/
theorem wordL_eq {w : Word} {o : Opcode} {p : List Byte} (h : opField w = o.code)
    (hm : w &&& Format.L.reservedMask = 0#32) (hp : p.length = (lenField w).toNat) : wordL o p = w := by
  apply BitVec.eq_of_getLsbD_eq
  intro i hi
  rw [getLsbD_wordL, hp, BitVec.ofNat_toNat, BitVec.setWidth_eq]
  have mask : ∀ j : Fin 32, Format.L.reservedMask.getLsbD j = decide (11 ≤ j.val ∧ j.val < 28) := by decide
  split_ifs with h1 h2
  · rw [lenField, BitVec.getLsbD_extractLsb']; simp [h1]
  · exact (getLsbD_of_masked hm (by rw [mask ⟨i, hi⟩]; simp; omega)).symm
  · exact (getLsbD_of_opField h (by omega) hi).symm

end

/-! ### How decoding ends -/

/-- A word that decodes has its payload, a legal operation code and zero reserved bits, and stands for that operation (R75). -/
theorem decode_ok {w : Word} {p : List Byte} {i : Instr} (h : decode w p = .ok i) :
    p.length = payloadLen w ∧
      ∃ o, opcodeOf (opField w) = some o ∧ w &&& o.format.reservedMask = 0#32 ∧ i = operation o w p := by
  unfold decode at h
  split at h
  · cases h
  · rename_i hl
    split at h
    · cases h
    · rename_i o ho
      split at h
      · cases h
      · rename_i hr
        cases h
        exact ⟨not_not.mp hl, o, ho, not_not.mp hr, rfl⟩

/-- What decoding gives once the payload is there. -/
theorem decode_of_payload {w : Word} {p : List Byte} (hl : p.length = payloadLen w) :
    decode w p =
      match opcodeOf (opField w) with
      | none => .error .illegalOpcode
      | some o => if w &&& o.format.reservedMask ≠ 0#32 then .error .reservedBits else .ok (operation o w p) := by
  unfold decode
  refine (if_neg (not_not.mpr hl)).trans ?_
  cases opcodeOf (opField w) <;> rfl

/-- Without its payload a word decodes to nothing (R81). -/
theorem decode_payloadLength {w : Word} {p : List Byte} :
    decode w p = .error .payloadLength ↔ p.length ≠ payloadLen w := by
  constructor
  · intro h hl
    rw [decode_of_payload hl] at h
    split at h
    · cases h
    · split at h <;> cases h
  · intro h
    rw [decode, if_pos h]

end Sys2Proof
end

