-- ==== Sys2Proof/Laws/Memory.lean ====
section
/-! SUPPORT. Framebuffer bytes: a read after a write, whole-buffer writes, and the canonical form every operation keeps. -/

namespace Sys2Proof.Machine

/-! ### Reading and writing one byte -/

@[simp] theorem Memory.read_nil (a : Nat) : Memory.read [] a = 0#8 := rfl

@[simp] theorem Memory.read_cons (c a : Nat) (v : Byte) (m : Memory) :
    Memory.read ((c, v) :: m) a = if a = c then v else Memory.read m a := rfl

/-- Below the first listed index nothing is listed. -/
theorem Memory.read_of_lt : ∀ {m : Memory} {k a : Nat}, m.wfFrom k = true → a < k → m.read a = 0#8
  | [], _, _, _, _ => rfl
  | (c, v) :: m, k, a, h, ha => by
    simp only [wfFrom, Bool.and_eq_true, decide_eq_true_eq] at h
    obtain ⟨⟨⟨h1, -⟩, -⟩, h4⟩ := h
    have : a ≠ c := by omega
    simp [this, Memory.read_of_lt h4 (show a < c + 1 by omega)]

/-- A canonical form from a later index is one from an earlier index. -/
theorem Memory.wfFrom_mono : ∀ {m : Memory} {k l : Nat}, m.wfFrom k = true → l ≤ k → m.wfFrom l = true
  | [], _, _, _, _ => rfl
  | (c, v) :: m, k, l, h, hl => by
    simp only [wfFrom, Bool.and_eq_true, decide_eq_true_eq] at h ⊢
    exact ⟨⟨⟨by omega, h.1.1.2⟩, h.1.2⟩, h.2⟩

/-- A byte reads as it was written, and every other byte as before (R62). -/
theorem Memory.read_write : ∀ {m : Memory} {k : Nat}, m.wfFrom k = true → ∀ (a b : Nat) (v : Byte),
    (m.write a v).read b = if b = a then v else m.read b
  | [], _, _, a, b, v => by
    by_cases hv : v = 0#8 <;> simp [write, unlisted, hv]
  | (c, w) :: m, k, h, a, b, v => by
    have h' := h
    simp only [wfFrom, Bool.and_eq_true, decide_eq_true_eq] at h
    have ih := Memory.read_write h.2 a b v
    have hlow : ∀ x, x < c + 1 → Memory.read m x = 0#8 := fun x hx => Memory.read_of_lt h.2 hx
    unfold write
    by_cases h1 : a < c
    · by_cases hv : v = 0#8
      · simp only [h1, hv, unlisted, if_true, read_cons]
        by_cases hb : b = a
        · subst hb
          have : b ≠ c := by omega
          simp [this, hlow b (by omega)]
        · simp [hb]
      · simp [h1, hv, unlisted]
    · by_cases h2 : a = c
      · subst h2
        by_cases hv : v = 0#8
        · simp only [lt_irrefl, hv, unlisted, if_true, if_false, read_cons]
          by_cases hb : b = a
          · subst hb; simp [hlow b (by omega)]
          · simp [hb]
        · by_cases hb : b = a <;> simp [hv, unlisted, hb]
      · simp only [h1, h2, if_false, read_cons, ih]
        by_cases hb : b = c
        · subst hb; simp [Ne.symm h2]
        · simp [hb]

/-- A write keeps the canonical form. -/
theorem Memory.wfFrom_write : ∀ {m : Memory} {k a : Nat} (v : Byte), m.wfFrom k = true → k ≤ a → a < FB_BYTES →
    (m.write a v).wfFrom k = true
  | [], k, a, v, _, hk, ha => by
    by_cases hv : v = unlisted
    · simp [write, hv, wfFrom]
    · simp [write, hv, wfFrom, hk, ha]
  | (c, w) :: m, k, a, v, h, hk, ha => by
    have h' := h
    simp only [wfFrom, Bool.and_eq_true, decide_eq_true_eq] at h
    unfold write
    by_cases h1 : a < c
    · by_cases hv : v = unlisted
      · simpa [h1, hv] using h'
      · simp only [h1, hv, if_true, if_false, wfFrom, Bool.and_eq_true, decide_eq_true_eq]
        exact ⟨⟨⟨hk, ha⟩, hv⟩, ⟨⟨by omega, h.1.1.2⟩, h.1.2⟩, h.2⟩
    · by_cases h2 : a = c
      · by_cases hv : v = unlisted
        · simp only [h2, hv, lt_irrefl, if_true, if_false]
          exact Memory.wfFrom_mono h.2 (by omega)
        · simp only [h2, hv, lt_irrefl, if_true, if_false, wfFrom, Bool.and_eq_true, decide_eq_true_eq]
          exact ⟨⟨⟨by omega, h.1.1.2⟩, hv⟩, h.2⟩
      · simp only [h1, h2, if_false, wfFrom, Bool.and_eq_true, decide_eq_true_eq]
        exact ⟨h.1, Memory.wfFrom_write v h.2 (by omega) ha⟩

theorem Memory.wf_write {m : Memory} {a : Nat} (v : Byte) (h : m.wf = true) (ha : a < FB_BYTES) :
    (m.write a v).wf = true := Memory.wfFrom_write v h (Nat.zero_le _) ha

theorem Memory.read_write_of_wf {m : Memory} (h : m.wf = true) (a b : Nat) (v : Byte) :
    (m.write a v).read b = if b = a then v else m.read b := Memory.read_write h a b v

/-! ### Equal reads, equal memories -/

theorem Memory.ext_from : ∀ {m n : Memory} {k : Nat}, m.wfFrom k = true → n.wfFrom k = true →
    (∀ a, m.read a = n.read a) → m = n
  | [], [], _, _, _, _ => rfl
  | [], (c, v) :: n, k, _, h, he => by
    simp only [wfFrom, Bool.and_eq_true, decide_eq_true_eq] at h
    have := (he c).symm
    exact absurd (by simpa using this : v = 0#8) h.1.2
  | (c, v) :: m, [], k, h, _, he => by
    simp only [wfFrom, Bool.and_eq_true, decide_eq_true_eq] at h
    have := he c
    exact absurd (by simpa using this : v = 0#8) h.1.2
  | (c, v) :: m, (d, w) :: n, k, hm, hn, he => by
    simp only [wfFrom, Bool.and_eq_true, decide_eq_true_eq] at hm hn
    have low_m : ∀ x, x < c + 1 → Memory.read m x = 0#8 := fun x hx => Memory.read_of_lt hm.2 hx
    have low_n : ∀ x, x < d + 1 → Memory.read n x = 0#8 := fun x hx => Memory.read_of_lt hn.2 hx
    have hcd : c = d := by
      by_contra hne
      rcases Nat.lt_or_gt_of_ne hne with hlt | hgt
      · have := he c
        simp only [read_cons, if_true, hne, if_false, low_n c (by omega)] at this
        exact hm.1.2 this
      · have := he d
        simp only [read_cons, if_true, Ne.symm hne, if_false, low_m d (by omega)] at this
        exact hn.1.2 this.symm
    subst hcd
    have hvw : v = w := by simpa using he c
    subst hvw
    have : m = n := Memory.ext_from hm.2 hn.2 fun a => by
      by_cases ha : a = c
      · subst ha; rw [low_m a (by omega), low_n a (by omega)]
      · simpa [ha] using he a
    rw [this]

/-- Two canonical memories with equal bytes are equal data. -/
theorem Memory.ext_of_wf {m n : Memory} (hm : m.wf = true) (hn : n.wf = true) (h : ∀ a, m.read a = n.read a) : m = n :=
  Memory.ext_from hm hn h

/-- No index at or above FB_BYTES is listed. -/
theorem Memory.read_beyond : ∀ {m : Memory} {k a : Nat}, m.wfFrom k = true → FB_BYTES ≤ a → m.read a = 0#8
  | [], _, _, _, _ => rfl
  | (c, v) :: m, k, a, h, ha => by
    simp only [wfFrom, Bool.and_eq_true, decide_eq_true_eq] at h
    have : a ≠ c := by omega
    simp [this, Memory.read_beyond h.2 ha]

/-- Two canonical memories with equal bytes at the indices of a framebuffer are equal data. -/
theorem Memory.ext_of_wf_lt {m n : Memory} (hm : m.wf = true) (hn : n.wf = true)
    (h : ∀ a, a < FB_BYTES → m.read a = n.read a) : m = n :=
  Memory.ext_of_wf hm hn fun a => by
    by_cases ha : a < FB_BYTES
    · exact h a ha
    · rw [Memory.read_beyond hm (by omega), Memory.read_beyond hn (by omega)]

/-! ### Whole-buffer writes and reads -/

theorem Memory.read_ofBytesFrom : ∀ (bs : List Byte) (k a : Nat),
    (Memory.ofBytesFrom k bs).read a = if k ≤ a then bs.getD (a - k) 0#8 else 0#8
  | [], k, a => by simp [ofBytesFrom]
  | b :: bs, k, a => by
    have ih := Memory.read_ofBytesFrom bs (k + 1) a
    have key : Memory.read ((k, b) :: ofBytesFrom (k + 1) bs) a = if k ≤ a then (b :: bs).getD (a - k) 0#8 else 0#8 := by
      rw [read_cons, ih]
      rcases Nat.lt_trichotomy a k with h | h | h
      · simp [show ¬ k ≤ a by omega, show a ≠ k by omega, show ¬ k + 1 ≤ a by omega]
      · simp [h]
      · obtain ⟨d, rfl⟩ : ∃ d, a = k + 1 + d := ⟨a - (k + 1), by omega⟩
        simp [show k + 1 + d ≠ k by omega, show k + 1 + d - k = d + 1 by omega, show k ≤ k + 1 + d by omega]
    by_cases hb : b = unlisted
    · rw [ofBytesFrom, if_pos hb, ← key, read_cons]
      by_cases ha : a = k
      · subst ha; simp [ih, hb, unlisted]
      · simp [ha]
    · rw [ofBytesFrom, if_neg hb, key]

/-- Byte k of a whole-buffer write is at index k. -/
@[simp] theorem Memory.read_ofBytes (bs : List Byte) (a : Nat) : (Memory.ofBytes bs).read a = bs.getD a 0#8 := by
  simp [ofBytes, read_ofBytesFrom]

theorem Memory.wfFrom_ofBytesFrom : ∀ (bs : List Byte) (k : Nat), k + bs.length ≤ FB_BYTES →
    (Memory.ofBytesFrom k bs).wfFrom k = true
  | [], _, _ => rfl
  | b :: bs, k, h => by
    simp only [List.length_cons] at h
    have ih := Memory.wfFrom_ofBytesFrom bs (k + 1) (by omega)
    by_cases hb : b = unlisted
    · rw [ofBytesFrom, if_pos hb]; exact Memory.wfFrom_mono ih (by omega)
    · rw [ofBytesFrom, if_neg hb]
      simp only [wfFrom, Bool.and_eq_true, decide_eq_true_eq]
      exact ⟨⟨⟨le_refl _, by omega⟩, hb⟩, ih⟩

/-- A whole-buffer write gives the canonical form. -/
theorem Memory.wf_ofBytes {bs : List Byte} (h : bs.length ≤ FB_BYTES) : (Memory.ofBytes bs).wf = true :=
  Memory.wfFrom_ofBytesFrom bs 0 (by omega)

@[simp] theorem Memory.length_toBytes (m : Memory) : m.toBytes.length = FB_BYTES := by simp [toBytes]

/-- Byte k of a whole-buffer read is the byte at index k (R65). -/
theorem Memory.getD_toBytes (m : Memory) {k : Nat} (h : k < FB_BYTES) : m.toBytes.getD k 0#8 = m.read k := by
  simp [toBytes, h]

/-- Reading back a whole-buffer write of 1024 bytes gives the bytes written. -/
theorem Memory.toBytes_ofBytes {bs : List Byte} (h : bs.length = FB_BYTES) : (Memory.ofBytes bs).toBytes = bs := by
  apply List.ext_getElem (by simp [h])
  intro k h1 h2
  simp [toBytes, h2]

/-- Writing back a whole-buffer read gives the same memory. -/
theorem Memory.ofBytes_toBytes {m : Memory} (h : m.wf = true) : Memory.ofBytes m.toBytes = m :=
  Memory.ext_of_wf_lt (Memory.wf_ofBytes (by simp)) h fun a ha => by
    rw [read_ofBytes, getD_toBytes m ha]

/-- The whole-buffer read depends on the bytes alone. -/
theorem Memory.toBytes_congr {m n : Memory} (h : ∀ a, a < FB_BYTES → m.read a = n.read a) : m.toBytes = n.toBytes :=
  List.map_congr_left fun a ha => h a (List.mem_range.mp ha)

/-! ### The all-zero buffer -/

theorem allZero_iff (m : Memory) : allZero m = true ↔ ∀ a, a < FB_BYTES → m.read a = 0#8 := by
  simp [allZero]

/-- A buffer of zeros lists nothing. -/
theorem Memory.ofBytesFrom_replicate_zero : ∀ (n k : Nat), Memory.ofBytesFrom k (List.replicate n 0#8) = []
  | 0, _ => rfl
  | n + 1, k => by
    rw [List.replicate_succ, ofBytesFrom, if_pos (show (0#8 : Byte) = unlisted from rfl)]
    exact Memory.ofBytesFrom_replicate_zero n (k + 1)

/-- What CLEAR leaves in a buffer lists nothing (R104). -/
@[simp] theorem Memory.ofBytes_zero : Memory.ofBytes (List.replicate FB_BYTES 0#8) = [] :=
  Memory.ofBytesFrom_replicate_zero _ _

/-- A canonical memory is all zero exactly when it lists nothing. -/
theorem allZero_iff_nil {m : Memory} (h : m.wf = true) : allZero m = true ↔ m = [] := by
  rw [allZero_iff]
  exact ⟨fun hz => Memory.ext_of_wf_lt h rfl hz, fun hm => by subst hm; intro _ _; rfl⟩

@[simp] theorem Memory.wf_nil : Memory.wf [] = true := rfl

end Sys2Proof.Machine
end

