-- ==== Sys2Proof/Laws/Operands.lean ====
section
/-! SUPPORT. Coordinates: the normalization is the remainder, the packed layout is a bijection, and what setting a cell does
to every cell. -/

namespace Sys2Proof.Machine

/-- On its whole domain the normalization is the remainder (R101). -/
theorem norm_eq_emod {v n : Int} (hn : 0 < n) (h1 : -1 ≤ v) (h2 : v ≤ n) : norm v n = v % n := by
  unfold norm
  split
  · rename_i h; subst h
    have : (-1 : Int) + n = (-1 + n) % n := (Int.emod_eq_of_lt (by omega) (by omega)).symm
    rw [this]; simp
  · split
    · rename_i h; subst h; simp
    · exact (Int.emod_eq_of_lt (by omega) (by omega)).symm

/-- The normalization gives a coordinate in range (R101). -/
theorem norm_range {v n : Int} (h0 : 0 < n) (h1 : -1 ≤ v) (h2 : v ≤ n) : 0 ≤ norm v n ∧ norm v n < n := by
  unfold norm; split
  · omega
  · split <;> omega

/-- A coordinate in range is not changed (R101). -/
theorem norm_of_range {v n : Int} (h1 : 0 ≤ v) (h2 : v < n) : norm v n = v := by
  unfold norm; split
  · omega
  · split <;> omega

theorem byteIndex_lt {x y : Nat} (hx : x < W) (hy : y < H) : byteIndex x y < FB_BYTES := by
  simp only [byteIndex, W, H, FB_BYTES] at *; omega

theorem bitIndex_lt (y : Nat) : bitIndex y < 8 := Nat.mod_lt _ (by decide)

/-- Cells with the same byte and bit are the same cell (R52). -/
theorem layout_injective {x y x' y' : Nat} (hx : x < W) (hx' : x' < W) (hb : byteIndex x y = byteIndex x' y')
    (hi : bitIndex y = bitIndex y') : x = x' ∧ y = y' := by
  simp only [byteIndex, bitIndex, W] at *; omega

/-- Every bit of a buffer is a cell (R52). -/
theorem layout_surjective {i b : Nat} (hi : i < FB_BYTES) (hb : b < 8) :
    i % W < W ∧ 8 * (i / W) + b < H ∧ byteIndex (i % W) (8 * (i / W) + b) = i ∧ bitIndex (8 * (i / W) + b) = b := by
  simp only [byteIndex, bitIndex, W, H, FB_BYTES] at *; omega

theorem byteIndex_page {x p b : Nat} (hb : b < 8) : byteIndex x (8 * p + b) = p * W + x := by
  simp only [byteIndex, W]; omega

/-- The cells of a buffer determine its bytes. -/
theorem read_eq_of_cells {m n : Memory} (h : ∀ x y, x < W → y < H → cell m x y = cell n x y) {i : Nat} (hi : i < FB_BYTES) :
    m.read i = n.read i := by
  apply BitVec.eq_of_getLsbD_eq
  intro b hb
  obtain ⟨h1, h2, h3, h4⟩ := layout_surjective hi hb
  simpa [cell, h3, h4] using h _ _ h1 h2

/-- A cell depends on the bytes of its buffer alone. -/
theorem cell_congr {m n : Memory} (h : ∀ a, a < FB_BYTES → m.read a = n.read a) {x y : Nat} (hx : x < W) (hy : y < H) :
    cell m x y = cell n x y := by
  simp [cell, h _ (byteIndex_lt hx hy)]

/-- SET changes the one byte that holds its cell (R102). -/
theorem read_setCell {m : Memory} (h : m.wf = true) (x y a : Nat) :
    (setCell m x y).read a = if a = byteIndex x y then m.read a ||| (1#8 <<< bitIndex y) else m.read a := by
  rw [setCell, Memory.read_write_of_wf h]
  split
  · rename_i ha; rw [ha]
  · rfl

/-- SET keeps the canonical form. -/
theorem wf_setCell {m : Memory} (h : m.wf = true) {x y : Nat} (hx : x < W) (hy : y < H) : (setCell m x y).wf = true :=
  Memory.wf_write _ h (byteIndex_lt hx hy)

/-- SET makes its cell live and changes no other cell (R102). -/
theorem cell_setCell {m : Memory} (h : m.wf = true) {x y x' y' : Nat} (hx : x < W) (hx' : x' < W) :
    cell (setCell m x y) x' y' = (decide (x' = x ∧ y' = y) || cell m x' y') := by
  rw [cell, read_setCell h]
  by_cases hb : byteIndex x' y' = byteIndex x y
  · by_cases hi : bitIndex y' = bitIndex y
    · have := layout_injective hx' hx hb hi
      simp [this.1, this.2, bitIndex, Nat.mod_lt]
    · have hne : ¬ (x' = x ∧ y' = y) := fun e => hi (by rw [e.2])
      have h8 := bitIndex_lt y'
      rw [if_pos hb]
      simp only [BitVec.getLsbD_or, hne, decide_false, Bool.false_or, cell]
      have : (1#8 <<< bitIndex y).getLsbD (bitIndex y') = false := by
        have h7 := bitIndex_lt y
        generalize bitIndex y' = p at *
        generalize bitIndex y = q at *
        interval_cases p <;> interval_cases q <;> first | rfl | exact absurd rfl hi
      simp [this]
  · have hne : ¬ (x' = x ∧ y' = y) := fun e => hb (by rw [e.1, e.2])
    simp [hb, hne, cell]

end Sys2Proof.Machine
end

