-- ==== Sys2Proof/Laws/Life.lean ====
section
/-! SUPPORT. The generation function cell by cell. -/

namespace Sys2Proof.Machine

/-- Bit b of a packed byte is cell b (R51). -/
theorem getLsbD_packByte (f : Nat → Bool) {b : Nat} (hb : b < 8) : (packByte f).getLsbD b = f b := by
  rw [packByte, BitVec.getLsbD_ofBoolListLE]
  interval_cases b <;> rfl

/-- The rule in its short form (R142). -/
theorem lifeRule_iff (a : Bool) (k : Nat) : lifeRule a k = true ↔ k = 3 ∨ (a = true ∧ k = 2) := by
  cases a <;> simp [lifeRule]
  omega

/-- Byte i of the next generation (R143). -/
theorem read_life (m : Memory) {i : Nat} (hi : i < FB_BYTES) : (life m).read i = lifeByte m i := by
  simp [life, hi]

/-- The generation function gives the canonical form. -/
theorem wf_life (m : Memory) : (life m).wf = true := Memory.wf_ofBytes (by simp)

/-- Cell (x, y) of the next generation is the rule applied to it and its neighbours (R143). -/
theorem cell_life (m : Memory) {x y : Nat} (hx : x < W) (hy : y < H) : cell (life m) x y = lifeCell m x y := by
  have hmod : byteIndex x y % W = x := by simp only [byteIndex, W] at *; omega
  have hdiv : 8 * (byteIndex x y / W) + bitIndex y = y := by simp only [byteIndex, bitIndex, W] at *; omega
  rw [cell, read_life m (byteIndex_lt hx hy), lifeByte, getLsbD_packByte _ (bitIndex_lt y), hmod, hdiv]

/-- A cell within one unit of the grid is a cell of the torus (R101, R141). -/
theorem wrappedCell_eq (m : Memory) {x y : Int} (hx : -1 ≤ x ∧ x ≤ 128) (hy : -1 ≤ y ∧ y ≤ 64) :
    wrappedCell m x y = cell m (x % 128).toNat (y % 64).toNat := by
  have h1 : norm x (W : Int) = x % 128 := norm_eq_emod (by decide) hx.1 hx.2
  have h2 : norm y (H : Int) = y % 64 := norm_eq_emod (by decide) hy.1 hy.2
  rw [wrappedCell, h1, h2]

theorem wrappedCell_congr {m n : Memory} (h : ∀ a, a < FB_BYTES → m.read a = n.read a) {x y : Int}
    (hx : -1 ≤ x ∧ x ≤ 128) (hy : -1 ≤ y ∧ y ≤ 64) : wrappedCell m x y = wrappedCell n x y := by
  rw [wrappedCell_eq m hx hy, wrappedCell_eq n hx hy]
  exact cell_congr h (by simp only [W]; omega) (by simp only [H]; omega)

theorem neighbours_near {d : Int × Int} (hd : d ∈ neighbours) : (-1 ≤ d.1 ∧ d.1 ≤ 1) ∧ (-1 ≤ d.2 ∧ d.2 ≤ 1) := by
  simp only [neighbours, List.mem_cons, List.not_mem_nil, or_false] at hd
  rcases hd with h | h | h | h | h | h | h | h <;> subst h <;> decide

/-- The neighbour count depends on the bytes of the buffer alone (R145). -/
theorem count_congr {m n : Memory} (h : ∀ a, a < FB_BYTES → m.read a = n.read a) {x y : Nat} (hx : x < W) (hy : y < H) :
    count m x y = count n x y := by
  refine congrArg List.sum (List.map_congr_left fun d hd => ?_)
  have ⟨h1, h2⟩ := neighbours_near hd
  simp only [W, H] at hx hy
  rw [wrappedCell_congr h (by omega) (by omega)]

/-- Life depends on the bytes of the buffer alone (R143, R145). -/
theorem life_congr {m n : Memory} (h : ∀ a, a < FB_BYTES → m.read a = n.read a) : life m = life n := by
  refine Memory.ext_of_wf_lt (wf_life m) (wf_life n) fun i hi => ?_
  refine read_eq_of_cells (fun x y hx hy => ?_) hi
  rw [cell_life m hx hy, cell_life n hx hy, lifeCell, lifeCell, cell_congr h hx hy, count_congr h hx hy]

/-- An empty buffer has no live neighbour anywhere. -/
theorem count_nil (x y : Nat) : count [] x y = 0 := by
  simp [count, neighbours, wrappedCell, cell]

/-- The generation after an empty one is empty (R140). -/
theorem life_nil : life [] = [] := by
  refine Memory.ext_of_wf_lt (wf_life []) rfl fun i hi => ?_
  refine read_eq_of_cells (fun x y hx hy => ?_) hi
  rw [cell_life [] hx hy, lifeCell, count_nil]
  simp [cell, lifeRule]

end Sys2Proof.Machine
end

