-- ==== Sys2Proof/Laws/State.lean ====
section
/-! SUPPORT. What each named update of the state does to each field: one lemma per field and update. -/

namespace Sys2Proof.Machine

variable (s : State)

/-! ### setFb -/

@[simp] theorem State.setFb_def0 (p : Buf) (m : Memory) : (s.setFb p m).def0 = s.def0 := by cases p <;> rfl
@[simp] theorem State.setFb_def1 (p : Buf) (m : Memory) : (s.setFb p m).def1 = s.def1 := by cases p <;> rfl
@[simp] theorem State.setFb_curPhys (p : Buf) (m : Memory) : (s.setFb p m).curPhys = s.curPhys := by cases p <;> rfl
@[simp] theorem State.setFb_stepped (p : Buf) (m : Memory) : (s.setFb p m).stepped = s.stepped := by cases p <;> rfl
@[simp] theorem State.setFb_sent (p : Buf) (m : Memory) : (s.setFb p m).sent = s.sent := by cases p <;> rfl
@[simp] theorem State.setFb_faulted (p : Buf) (m : Memory) : (s.setFb p m).faulted = s.faulted := by cases p <;> rfl
@[simp] theorem State.setFb_faultCode (p : Buf) (m : Memory) : (s.setFb p m).faultCode = s.faultCode := by cases p <;> rfl
@[simp] theorem State.setFb_faultWord (p : Buf) (m : Memory) : (s.setFb p m).faultWord = s.faultWord := by cases p <;> rfl
@[simp] theorem State.setFb_lastXfer (p : Buf) (m : Memory) : (s.setFb p m).lastXfer = s.lastXfer := by cases p <;> rfl
@[simp] theorem State.setFb_outLog (p : Buf) (m : Memory) : (s.setFb p m).outLog = s.outLog := by cases p <;> rfl
@[simp] theorem State.setFb_cfg (p : Buf) (m : Memory) : (s.setFb p m).cfg = s.cfg := by cases p <;> rfl
@[simp] theorem State.setFb_inputs (p : Buf) (m : Memory) : (s.setFb p m).inputs = s.inputs := by cases p <;> rfl
@[simp] theorem State.setFb_xfer (p : Buf) (m : Memory) : (s.setFb p m).xfer = s.xfer := by cases p <;> rfl
@[simp] theorem State.setFb_responses (p : Buf) (m : Memory) : (s.setFb p m).responses = s.responses := by cases p <;> rfl
@[simp] theorem State.setFb_received (p : Buf) (m : Memory) : (s.setFb p m).received = s.received := by cases p <;> rfl
@[simp] theorem State.setFb_wire (p : Buf) (m : Memory) : (s.setFb p m).wire = s.wire := by cases p <;> rfl

/-! ### setDef -/

@[simp] theorem State.setDef_fb0 (p : Buf) : (s.setDef p).fb0 = s.fb0 := by cases p <;> rfl
@[simp] theorem State.setDef_fb1 (p : Buf) : (s.setDef p).fb1 = s.fb1 := by cases p <;> rfl
@[simp] theorem State.setDef_curPhys (p : Buf) : (s.setDef p).curPhys = s.curPhys := by cases p <;> rfl
@[simp] theorem State.setDef_stepped (p : Buf) : (s.setDef p).stepped = s.stepped := by cases p <;> rfl
@[simp] theorem State.setDef_sent (p : Buf) : (s.setDef p).sent = s.sent := by cases p <;> rfl
@[simp] theorem State.setDef_faulted (p : Buf) : (s.setDef p).faulted = s.faulted := by cases p <;> rfl
@[simp] theorem State.setDef_faultCode (p : Buf) : (s.setDef p).faultCode = s.faultCode := by cases p <;> rfl
@[simp] theorem State.setDef_faultWord (p : Buf) : (s.setDef p).faultWord = s.faultWord := by cases p <;> rfl
@[simp] theorem State.setDef_lastXfer (p : Buf) : (s.setDef p).lastXfer = s.lastXfer := by cases p <;> rfl
@[simp] theorem State.setDef_outLog (p : Buf) : (s.setDef p).outLog = s.outLog := by cases p <;> rfl
@[simp] theorem State.setDef_cfg (p : Buf) : (s.setDef p).cfg = s.cfg := by cases p <;> rfl
@[simp] theorem State.setDef_inputs (p : Buf) : (s.setDef p).inputs = s.inputs := by cases p <;> rfl
@[simp] theorem State.setDef_xfer (p : Buf) : (s.setDef p).xfer = s.xfer := by cases p <;> rfl
@[simp] theorem State.setDef_responses (p : Buf) : (s.setDef p).responses = s.responses := by cases p <;> rfl
@[simp] theorem State.setDef_received (p : Buf) : (s.setDef p).received = s.received := by cases p <;> rfl
@[simp] theorem State.setDef_wire (p : Buf) : (s.setDef p).wire = s.wire := by cases p <;> rfl

/-! ### respond -/

@[simp] theorem State.respond_fb0 (code : RespCode) (data : RespData) : (s.respond code data).fb0 = s.fb0 := rfl
@[simp] theorem State.respond_fb1 (code : RespCode) (data : RespData) : (s.respond code data).fb1 = s.fb1 := rfl
@[simp] theorem State.respond_def0 (code : RespCode) (data : RespData) : (s.respond code data).def0 = s.def0 := rfl
@[simp] theorem State.respond_def1 (code : RespCode) (data : RespData) : (s.respond code data).def1 = s.def1 := rfl
@[simp] theorem State.respond_curPhys (code : RespCode) (data : RespData) : (s.respond code data).curPhys = s.curPhys := rfl
@[simp] theorem State.respond_stepped (code : RespCode) (data : RespData) : (s.respond code data).stepped = s.stepped := rfl
@[simp] theorem State.respond_sent (code : RespCode) (data : RespData) : (s.respond code data).sent = s.sent := rfl
@[simp] theorem State.respond_faulted (code : RespCode) (data : RespData) : (s.respond code data).faulted = s.faulted := rfl
@[simp] theorem State.respond_faultCode (code : RespCode) (data : RespData) : (s.respond code data).faultCode = s.faultCode := rfl
@[simp] theorem State.respond_faultWord (code : RespCode) (data : RespData) : (s.respond code data).faultWord = s.faultWord := rfl
@[simp] theorem State.respond_lastXfer (code : RespCode) (data : RespData) : (s.respond code data).lastXfer = s.lastXfer := rfl
@[simp] theorem State.respond_outLog (code : RespCode) (data : RespData) : (s.respond code data).outLog = s.outLog := rfl
@[simp] theorem State.respond_cfg (code : RespCode) (data : RespData) : (s.respond code data).cfg = s.cfg := rfl
@[simp] theorem State.respond_inputs (code : RespCode) (data : RespData) : (s.respond code data).inputs = s.inputs := rfl
@[simp] theorem State.respond_xfer (code : RespCode) (data : RespData) : (s.respond code data).xfer = s.xfer := rfl
@[simp] theorem State.respond_responses (code : RespCode) (data : RespData) : (s.respond code data).responses = s.responses ++ [{ code := code, data := data }] := rfl
@[simp] theorem State.respond_received (code : RespCode) (data : RespData) : (s.respond code data).received = s.received := rfl
@[simp] theorem State.respond_wire (code : RespCode) (data : RespData) : (s.respond code data).wire = s.wire := rfl

/-! ### enterFault -/

@[simp] theorem State.enterFault_fb0 (code : FaultCode) (w : Word) : (s.enterFault code w).fb0 = s.fb0 := rfl
@[simp] theorem State.enterFault_fb1 (code : FaultCode) (w : Word) : (s.enterFault code w).fb1 = s.fb1 := rfl
@[simp] theorem State.enterFault_def0 (code : FaultCode) (w : Word) : (s.enterFault code w).def0 = s.def0 := rfl
@[simp] theorem State.enterFault_def1 (code : FaultCode) (w : Word) : (s.enterFault code w).def1 = s.def1 := rfl
@[simp] theorem State.enterFault_curPhys (code : FaultCode) (w : Word) : (s.enterFault code w).curPhys = s.curPhys := rfl
@[simp] theorem State.enterFault_stepped (code : FaultCode) (w : Word) : (s.enterFault code w).stepped = s.stepped := rfl
@[simp] theorem State.enterFault_sent (code : FaultCode) (w : Word) : (s.enterFault code w).sent = s.sent := rfl
@[simp] theorem State.enterFault_faulted (code : FaultCode) (w : Word) : (s.enterFault code w).faulted = true := rfl
@[simp] theorem State.enterFault_faultCode (code : FaultCode) (w : Word) : (s.enterFault code w).faultCode = code := rfl
@[simp] theorem State.enterFault_faultWord (code : FaultCode) (w : Word) : (s.enterFault code w).faultWord = w := rfl
@[simp] theorem State.enterFault_lastXfer (code : FaultCode) (w : Word) : (s.enterFault code w).lastXfer = s.lastXfer := rfl
@[simp] theorem State.enterFault_outLog (code : FaultCode) (w : Word) : (s.enterFault code w).outLog = s.outLog := rfl
@[simp] theorem State.enterFault_cfg (code : FaultCode) (w : Word) : (s.enterFault code w).cfg = s.cfg := rfl
@[simp] theorem State.enterFault_inputs (code : FaultCode) (w : Word) : (s.enterFault code w).inputs = s.inputs := rfl
@[simp] theorem State.enterFault_xfer (code : FaultCode) (w : Word) : (s.enterFault code w).xfer = s.xfer := rfl
@[simp] theorem State.enterFault_responses (code : FaultCode) (w : Word) : (s.enterFault code w).responses = s.responses := rfl
@[simp] theorem State.enterFault_received (code : FaultCode) (w : Word) : (s.enterFault code w).received = s.received := rfl
@[simp] theorem State.enterFault_wire (code : FaultCode) (w : Word) : (s.enterFault code w).wire = s.wire := rfl

/-! ### emit -/

@[simp] theorem State.emit_fb0 (kind : FrameKind) (bytes : List Byte) : (s.emit kind bytes).fb0 = s.fb0 := rfl
@[simp] theorem State.emit_fb1 (kind : FrameKind) (bytes : List Byte) : (s.emit kind bytes).fb1 = s.fb1 := rfl
@[simp] theorem State.emit_def0 (kind : FrameKind) (bytes : List Byte) : (s.emit kind bytes).def0 = s.def0 := rfl
@[simp] theorem State.emit_def1 (kind : FrameKind) (bytes : List Byte) : (s.emit kind bytes).def1 = s.def1 := rfl
@[simp] theorem State.emit_curPhys (kind : FrameKind) (bytes : List Byte) : (s.emit kind bytes).curPhys = s.curPhys := rfl
@[simp] theorem State.emit_stepped (kind : FrameKind) (bytes : List Byte) : (s.emit kind bytes).stepped = s.stepped := rfl
@[simp] theorem State.emit_sent (kind : FrameKind) (bytes : List Byte) : (s.emit kind bytes).sent = s.sent := rfl
@[simp] theorem State.emit_faulted (kind : FrameKind) (bytes : List Byte) : (s.emit kind bytes).faulted = s.faulted := rfl
@[simp] theorem State.emit_faultCode (kind : FrameKind) (bytes : List Byte) : (s.emit kind bytes).faultCode = s.faultCode := rfl
@[simp] theorem State.emit_faultWord (kind : FrameKind) (bytes : List Byte) : (s.emit kind bytes).faultWord = s.faultWord := rfl
@[simp] theorem State.emit_lastXfer (kind : FrameKind) (bytes : List Byte) : (s.emit kind bytes).lastXfer = s.xfer.result := rfl
@[simp] theorem State.emit_outLog (kind : FrameKind) (bytes : List Byte) : (s.emit kind bytes).outLog = s.outLog ++ [{ kind := kind, bytes := bytes, result := s.xfer.result }] := rfl
@[simp] theorem State.emit_cfg (kind : FrameKind) (bytes : List Byte) : (s.emit kind bytes).cfg = s.cfg := rfl
@[simp] theorem State.emit_inputs (kind : FrameKind) (bytes : List Byte) : (s.emit kind bytes).inputs = s.inputs := rfl
@[simp] theorem State.emit_xfer (kind : FrameKind) (bytes : List Byte) : (s.emit kind bytes).xfer = s.xfer := rfl
@[simp] theorem State.emit_responses (kind : FrameKind) (bytes : List Byte) : (s.emit kind bytes).responses = s.responses := rfl
@[simp] theorem State.emit_received (kind : FrameKind) (bytes : List Byte) : (s.emit kind bytes).received = s.received ++ [s.xfer.delivered bytes] := rfl
@[simp] theorem State.emit_wire (kind : FrameKind) (bytes : List Byte) : (s.emit kind bytes).wire = s.wire ++ emission bytes := rfl

/-! ### markSent -/

@[simp] theorem State.markSent_fb0 : s.markSent.fb0 = s.fb0 := rfl
@[simp] theorem State.markSent_fb1 : s.markSent.fb1 = s.fb1 := rfl
@[simp] theorem State.markSent_def0 : s.markSent.def0 = s.def0 := rfl
@[simp] theorem State.markSent_def1 : s.markSent.def1 = s.def1 := rfl
@[simp] theorem State.markSent_curPhys : s.markSent.curPhys = s.curPhys := rfl
@[simp] theorem State.markSent_stepped : s.markSent.stepped = s.stepped := rfl
@[simp] theorem State.markSent_sent : s.markSent.sent = (s.sent || decide (s.xfer.result = .ok)) := rfl
@[simp] theorem State.markSent_faulted : s.markSent.faulted = s.faulted := rfl
@[simp] theorem State.markSent_faultCode : s.markSent.faultCode = s.faultCode := rfl
@[simp] theorem State.markSent_faultWord : s.markSent.faultWord = s.faultWord := rfl
@[simp] theorem State.markSent_lastXfer : s.markSent.lastXfer = s.lastXfer := rfl
@[simp] theorem State.markSent_outLog : s.markSent.outLog = s.outLog := rfl
@[simp] theorem State.markSent_cfg : s.markSent.cfg = s.cfg := rfl
@[simp] theorem State.markSent_inputs : s.markSent.inputs = s.inputs := rfl
@[simp] theorem State.markSent_xfer : s.markSent.xfer = s.xfer := rfl
@[simp] theorem State.markSent_responses : s.markSent.responses = s.responses := rfl
@[simp] theorem State.markSent_received : s.markSent.received = s.received := rfl
@[simp] theorem State.markSent_wire : s.markSent.wire = s.wire := rfl

/-! ### takeCommand -/

@[simp] theorem State.takeCommand_fb0 (c : Command) (rest : List Input) : (s.takeCommand c rest).fb0 = s.fb0 := rfl
@[simp] theorem State.takeCommand_fb1 (c : Command) (rest : List Input) : (s.takeCommand c rest).fb1 = s.fb1 := rfl
@[simp] theorem State.takeCommand_def0 (c : Command) (rest : List Input) : (s.takeCommand c rest).def0 = s.def0 := rfl
@[simp] theorem State.takeCommand_def1 (c : Command) (rest : List Input) : (s.takeCommand c rest).def1 = s.def1 := rfl
@[simp] theorem State.takeCommand_curPhys (c : Command) (rest : List Input) : (s.takeCommand c rest).curPhys = s.curPhys := rfl
@[simp] theorem State.takeCommand_stepped (c : Command) (rest : List Input) : (s.takeCommand c rest).stepped = s.stepped := rfl
@[simp] theorem State.takeCommand_sent (c : Command) (rest : List Input) : (s.takeCommand c rest).sent = s.sent := rfl
@[simp] theorem State.takeCommand_faulted (c : Command) (rest : List Input) : (s.takeCommand c rest).faulted = s.faulted := rfl
@[simp] theorem State.takeCommand_faultCode (c : Command) (rest : List Input) : (s.takeCommand c rest).faultCode = s.faultCode := rfl
@[simp] theorem State.takeCommand_faultWord (c : Command) (rest : List Input) : (s.takeCommand c rest).faultWord = s.faultWord := rfl
@[simp] theorem State.takeCommand_lastXfer (c : Command) (rest : List Input) : (s.takeCommand c rest).lastXfer = s.lastXfer := rfl
@[simp] theorem State.takeCommand_outLog (c : Command) (rest : List Input) : (s.takeCommand c rest).outLog = s.outLog := rfl
@[simp] theorem State.takeCommand_cfg (c : Command) (rest : List Input) : (s.takeCommand c rest).cfg = s.cfg := rfl
@[simp] theorem State.takeCommand_inputs (c : Command) (rest : List Input) : (s.takeCommand c rest).inputs = rest := rfl
@[simp] theorem State.takeCommand_xfer (c : Command) (rest : List Input) : (s.takeCommand c rest).xfer = c.xfer := rfl
@[simp] theorem State.takeCommand_responses (c : Command) (rest : List Input) : (s.takeCommand c rest).responses = s.responses := rfl
@[simp] theorem State.takeCommand_received (c : Command) (rest : List Input) : (s.takeCommand c rest).received = s.received := rfl
@[simp] theorem State.takeCommand_wire (c : Command) (rest : List Input) : (s.takeCommand c rest).wire = s.wire := rfl

/-! ### markStepped -/

@[simp] theorem State.markStepped_fb0 : s.markStepped.fb0 = s.fb0 := rfl
@[simp] theorem State.markStepped_fb1 : s.markStepped.fb1 = s.fb1 := rfl
@[simp] theorem State.markStepped_def0 : s.markStepped.def0 = s.def0 := rfl
@[simp] theorem State.markStepped_def1 : s.markStepped.def1 = s.def1 := rfl
@[simp] theorem State.markStepped_curPhys : s.markStepped.curPhys = s.curPhys := rfl
@[simp] theorem State.markStepped_stepped : s.markStepped.stepped = true := rfl
@[simp] theorem State.markStepped_sent : s.markStepped.sent = s.sent := rfl
@[simp] theorem State.markStepped_faulted : s.markStepped.faulted = s.faulted := rfl
@[simp] theorem State.markStepped_faultCode : s.markStepped.faultCode = s.faultCode := rfl
@[simp] theorem State.markStepped_faultWord : s.markStepped.faultWord = s.faultWord := rfl
@[simp] theorem State.markStepped_lastXfer : s.markStepped.lastXfer = s.lastXfer := rfl
@[simp] theorem State.markStepped_outLog : s.markStepped.outLog = s.outLog := rfl
@[simp] theorem State.markStepped_cfg : s.markStepped.cfg = s.cfg := rfl
@[simp] theorem State.markStepped_inputs : s.markStepped.inputs = s.inputs := rfl
@[simp] theorem State.markStepped_xfer : s.markStepped.xfer = s.xfer := rfl
@[simp] theorem State.markStepped_responses : s.markStepped.responses = s.responses := rfl
@[simp] theorem State.markStepped_received : s.markStepped.received = s.received := rfl
@[simp] theorem State.markStepped_wire : s.markStepped.wire = s.wire := rfl

/-! ### exchange -/

@[simp] theorem State.exchange_fb0 : s.exchange.fb0 = s.fb0 := rfl
@[simp] theorem State.exchange_fb1 : s.exchange.fb1 = s.fb1 := rfl
@[simp] theorem State.exchange_def0 : s.exchange.def0 = s.def0 := rfl
@[simp] theorem State.exchange_def1 : s.exchange.def1 = s.def1 := rfl
@[simp] theorem State.exchange_curPhys : s.exchange.curPhys = s.curPhys.other := rfl
@[simp] theorem State.exchange_stepped : s.exchange.stepped = false := rfl
@[simp] theorem State.exchange_sent : s.exchange.sent = false := rfl
@[simp] theorem State.exchange_faulted : s.exchange.faulted = s.faulted := rfl
@[simp] theorem State.exchange_faultCode : s.exchange.faultCode = s.faultCode := rfl
@[simp] theorem State.exchange_faultWord : s.exchange.faultWord = s.faultWord := rfl
@[simp] theorem State.exchange_lastXfer : s.exchange.lastXfer = s.lastXfer := rfl
@[simp] theorem State.exchange_outLog : s.exchange.outLog = s.outLog := rfl
@[simp] theorem State.exchange_cfg : s.exchange.cfg = s.cfg := rfl
@[simp] theorem State.exchange_inputs : s.exchange.inputs = s.inputs := rfl
@[simp] theorem State.exchange_xfer : s.exchange.xfer = s.xfer := rfl
@[simp] theorem State.exchange_responses : s.exchange.responses = s.responses := rfl
@[simp] theorem State.exchange_received : s.exchange.received = s.received := rfl
@[simp] theorem State.exchange_wire : s.exchange.wire = s.wire := rfl

/-! ### afterRst -/

@[simp] theorem State.afterRst_fb0 : s.afterRst.fb0 = [] := rfl
@[simp] theorem State.afterRst_fb1 : s.afterRst.fb1 = [] := rfl
@[simp] theorem State.afterRst_def0 : s.afterRst.def0 = false := rfl
@[simp] theorem State.afterRst_def1 : s.afterRst.def1 = false := rfl
@[simp] theorem State.afterRst_curPhys : s.afterRst.curPhys = .b0 := rfl
@[simp] theorem State.afterRst_stepped : s.afterRst.stepped = false := rfl
@[simp] theorem State.afterRst_sent : s.afterRst.sent = false := rfl
@[simp] theorem State.afterRst_faulted : s.afterRst.faulted = false := rfl
@[simp] theorem State.afterRst_faultCode : s.afterRst.faultCode = .none := rfl
@[simp] theorem State.afterRst_faultWord : s.afterRst.faultWord = 0#32 := rfl
@[simp] theorem State.afterRst_lastXfer : s.afterRst.lastXfer = .ok := rfl
@[simp] theorem State.afterRst_outLog : s.afterRst.outLog = [] := rfl
@[simp] theorem State.afterRst_cfg : s.afterRst.cfg = s.cfg := rfl
@[simp] theorem State.afterRst_inputs : s.afterRst.inputs = s.inputs := rfl
@[simp] theorem State.afterRst_xfer : s.afterRst.xfer = s.xfer := rfl
@[simp] theorem State.afterRst_responses : s.afterRst.responses = s.responses := rfl
@[simp] theorem State.afterRst_received : s.afterRst.received = s.received := rfl
@[simp] theorem State.afterRst_wire : s.afterRst.wire = s.wire := rfl

/-! ### The buffers of a role and their DEF flags -/

@[simp] theorem Buf.other_other (p : Buf) : p.other.other = p := by cases p <;> rfl
@[simp] theorem Buf.other_ne (p : Buf) : p.other ≠ p := by cases p <;> decide
@[simp] theorem Buf.ne_other (p : Buf) : p ≠ p.other := by cases p <;> decide

theorem Buf.eq_or_other (p q : Buf) : q = p ∨ q = p.other := by cases p <;> cases q <;> decide

@[simp] theorem State.phys_cur : s.phys .cur = s.curPhys := rfl
@[simp] theorem State.phys_nxt : s.phys .nxt = s.curPhys.other := rfl

@[simp] theorem State.fb_setFb_same (p : Buf) (m : Memory) : (s.setFb p m).fb p = m := by cases p <;> rfl

@[simp] theorem State.fb_setFb_other (p : Buf) (m : Memory) : (s.setFb p m).fb p.other = s.fb p.other := by cases p <;> rfl

@[simp] theorem State.fb_setFb_of_other (p : Buf) (m : Memory) : (s.setFb p.other m).fb p = s.fb p := by cases p <;> rfl

/-- Writing back what a buffer holds changes nothing. -/
@[simp] theorem State.setFb_fb (p : Buf) : s.setFb p (s.fb p) = s := by cases p <;> rfl

theorem State.fb_setFb (p q : Buf) (m : Memory) : (s.setFb p m).fb q = if q = p then m else s.fb q := by
  cases p <;> cases q <;> rfl

@[simp] theorem State.defd_setFb (p q : Buf) (m : Memory) : (s.setFb p m).defd q = s.defd q := by cases p <;> cases q <;> rfl

theorem State.defd_setDef (p q : Buf) : (s.setDef p).defd q = (decide (q = p) || s.defd q) := by
  cases p <;> cases q <;> rfl

@[simp] theorem State.defd_setDef_same (p : Buf) : (s.setDef p).defd p = true := by cases p <;> rfl
@[simp] theorem State.fb_setDef (p q : Buf) : (s.setDef p).fb q = s.fb q := by cases p <;> cases q <;> rfl

/-- A role names the same buffer in two states with the same CUR_PHYS. -/
theorem State.phys_congr {s t : State} (h : t.curPhys = s.curPhys) (r : Role) : t.phys r = s.phys r := by
  cases r <;> simp [h]

/-- The bytes of a buffer depend on the two framebuffers alone. -/
theorem State.fb_congr {s t : State} (h0 : t.fb0 = s.fb0) (h1 : t.fb1 = s.fb1) (p : Buf) : t.fb p = s.fb p := by
  cases p <;> assumption

/-- The DEF flag of a buffer depends on the two flags alone. -/
theorem State.defd_congr {s t : State} (h0 : t.def0 = s.def0) (h1 : t.def1 = s.def1) (p : Buf) : t.defd p = s.defd p := by
  cases p <;> assumption

@[simp] theorem State.fb_respond (code : RespCode) (data : RespData) (p : Buf) : (s.respond code data).fb p = s.fb p := by cases p <;> rfl
@[simp] theorem State.defd_respond (code : RespCode) (data : RespData) (p : Buf) : (s.respond code data).defd p = s.defd p := by cases p <;> rfl
@[simp] theorem State.fb_enterFault (code : FaultCode) (w : Word) (p : Buf) : (s.enterFault code w).fb p = s.fb p := by cases p <;> rfl
@[simp] theorem State.defd_enterFault (code : FaultCode) (w : Word) (p : Buf) : (s.enterFault code w).defd p = s.defd p := by cases p <;> rfl
@[simp] theorem State.fb_emit (kind : FrameKind) (bytes : List Byte) (p : Buf) : (s.emit kind bytes).fb p = s.fb p := by cases p <;> rfl
@[simp] theorem State.defd_emit (kind : FrameKind) (bytes : List Byte) (p : Buf) : (s.emit kind bytes).defd p = s.defd p := by cases p <;> rfl
@[simp] theorem State.fb_markSent (p : Buf) : s.markSent.fb p = s.fb p := by cases p <;> rfl
@[simp] theorem State.defd_markSent (p : Buf) : s.markSent.defd p = s.defd p := by cases p <;> rfl
@[simp] theorem State.fb_takeCommand (c : Command) (rest : List Input) (p : Buf) : (s.takeCommand c rest).fb p = s.fb p := by cases p <;> rfl
@[simp] theorem State.defd_takeCommand (c : Command) (rest : List Input) (p : Buf) : (s.takeCommand c rest).defd p = s.defd p := by cases p <;> rfl
@[simp] theorem State.fb_markStepped (p : Buf) : s.markStepped.fb p = s.fb p := by cases p <;> rfl
@[simp] theorem State.defd_markStepped (p : Buf) : s.markStepped.defd p = s.defd p := by cases p <;> rfl
@[simp] theorem State.fb_exchange (p : Buf) : s.exchange.fb p = s.fb p := by cases p <;> rfl
@[simp] theorem State.defd_exchange (p : Buf) : s.exchange.defd p = s.defd p := by cases p <;> rfl

/-! ### The buffer of a role: only SWAP and reset change it (R24) -/

@[simp] theorem State.phys_setFb (p : Buf) (m : Memory) (r : Role) : (s.setFb p m).phys r = s.phys r := State.phys_congr (by simp) r
@[simp] theorem State.phys_setDef (p : Buf) (r : Role) : (s.setDef p).phys r = s.phys r := State.phys_congr (by simp) r
@[simp] theorem State.phys_respond (code : RespCode) (data : RespData) (r : Role) : (s.respond code data).phys r = s.phys r := State.phys_congr (by simp) r
@[simp] theorem State.phys_enterFault (code : FaultCode) (w : Word) (r : Role) : (s.enterFault code w).phys r = s.phys r := State.phys_congr (by simp) r
@[simp] theorem State.phys_emit (kind : FrameKind) (bytes : List Byte) (r : Role) : (s.emit kind bytes).phys r = s.phys r := State.phys_congr (by simp) r
@[simp] theorem State.phys_markSent (r : Role) : s.markSent.phys r = s.phys r := State.phys_congr (by simp) r
@[simp] theorem State.phys_markStepped (r : Role) : s.markStepped.phys r = s.phys r := State.phys_congr (by simp) r
@[simp] theorem State.phys_takeCommand (c : Command) (rest : List Input) (r : Role) : (s.takeCommand c rest).phys r = s.phys r := State.phys_congr (by simp) r

end Sys2Proof.Machine
end

