-- ==== Sys2Proof/Laws/Exec.lean ====
section
/-! SUPPORT. What an operation can do, said once: in the fault state it is rejected; else it raises the first fault that
applies to it, or has its effect. -/

namespace Sys2Proof.Machine

/-! ### The shared operations -/

theorem accept_faulted {s : State} (h : s.faulted = true) (k : Result) : accept s k = reject s := by simp [accept, h]

theorem accept_running {s : State} (h : s.faulted = false) (k : Result) : accept s k = k := by simp [accept, h]

/-- What `accept` can answer. -/
theorem accept_cases {s t : State} {k : Result} (h : accept s k = .next t) :
    (s.faulted = true ∧ t = s.respond .rejected .none) ∨ (s.faulted = false ∧ k = .next t) := by
  cases hf : s.faulted with
  | true => rw [accept_faulted hf] at h; cases h; exact .inl ⟨rfl, rfl⟩
  | false => rw [accept_running hf] at h; exact .inr ⟨rfl, h⟩

/-! ### Fault, or effect -/

/-- The fault an operation raises outside the fault state, if any (R211, R212). -/
def faultOf (i : Instr) (s : State) : Option FaultCode :=
  match i with
  | .get r x y =>
    if inGetRange (coordX x) (coordY y) = false then some .coordRange
    else if s.defd (s.phys r) = false then some .undefinedRead else none
  | .set _ x y =>
    if inSetRange (coordX x) (coordY y) = false then some .coordRange
    else if s.stepped then some .lockedWrite else none
  | .clear _ => if s.stepped then some .lockedWrite else none
  | .rdbytes r => if s.defd (s.phys r) = false then some .undefinedRead else none
  | .ldseed p =>
    if p.length ≠ FB_BYTES then some .seedLength
    else if s.stepped then some .lockedWrite else none
  | .step =>
    if s.defd s.curPhys = false then some .undefinedRead
    else if s.nxtZero = false then some .nextNotClear else none
  | .swap => if s.swapAllowed = false then some .swapOrder else none
  | .sendf => if s.defd s.curPhys = false then some .undefinedRead else none
  | .sendc p => if p.length = 0 then some .cmdLength else none
  | .sendinit => none
  | .rdstat _ => none

/-- What an operation writes where it raises no fault. -/
def change (i : Instr) (s : State) : State :=
  match i with
  | .get _ _ _ => s
  | .set r x y => s.setFb (s.phys r) (setCell (s.fb (s.phys r)) (coordX x).toNat (coordY y).toNat)
  | .clear r => (s.setFb (s.phys r) []).setDef (s.phys r)
  | .rdbytes _ => s
  | .ldseed p => (s.setFb s.curPhys (Memory.ofBytes p)).setDef s.curPhys
  | .step => (s.setFb s.curPhys.other (life (s.fb s.curPhys))).markStepped
  | .swap => s.exchange
  | .sendf => (s.emit .data (dataFrame (s.fb s.curPhys))).markSent
  | .sendc p => s.emit .cmd (cmdFrame p)
  | .sendinit => s.emit .cmd (cmdFrame INIT_SEQ)
  | .rdstat _ => s

/-- The code an operation responds with where it raises no fault (R74, R175). -/
def answerCode (i : Instr) (s : State) : RespCode :=
  match i with
  | .get _ _ _ => .ok
  | .set _ _ _ => .ok
  | .clear _ => .ok
  | .rdbytes _ => .ok
  | .ldseed _ => .ok
  | .step => .ok
  | .swap => .ok
  | .sendf => s.xfer.result.response
  | .sendc _ => s.xfer.result.response
  | .sendinit => s.xfer.result.response
  | .rdstat _ => .ok

/-- The data an operation responds with where it raises no fault (R74). -/
def answerData (i : Instr) (s : State) : RespData :=
  match i with
  | .get r x y => .bit (BitVec.ofBool (wrappedCell (s.fb (s.phys r)) (coordX x) (coordY y)))
  | .set _ _ _ => .none
  | .clear _ => .none
  | .rdbytes r => .bytes (s.fb (s.phys r)).toBytes
  | .ldseed _ => .none
  | .step => .none
  | .swap => .none
  | .sendf => .none
  | .sendc _ => .none
  | .sendinit => .none
  | .rdstat sel => .word (s.control sel)

/-- The state an operation leaves where it raises no fault. -/
def effect (i : Instr) (s : State) : State := (change i s).respond (answerCode i s) (answerData i s)

/-- Whether an operation also runs in the fault state: RDSTAT alone (R214). -/
def runsFaulted : Instr → Bool
  | .get _ _ _ => false
  | .set _ _ _ => false
  | .clear _ => false
  | .rdbytes _ => false
  | .ldseed _ => false
  | .step => false
  | .swap => false
  | .sendf => false
  | .sendc _ => false
  | .sendinit => false
  | .rdstat _ => true

/-- Everything an operation can do (R212). -/
theorem exec_eq (i : Instr) (s : State) :
    exec i s =
      if s.faulted = true ∧ runsFaulted i = false then .next (s.respond .rejected .none)
      else match faultOf i s with
        | some c => .next ((s.enterFault c (encode i)).respond .fault .none)
        | none => .next (effect i s) := by
  cases hf : s.faulted with
  | true =>
    cases i <;>
      simp [exec, runsFaulted, execGet, execSet, execClear, execRdbytes, execLdseed, execStep, execSwap, execSendf, execSendc,
        execSendinit, accept_faulted hf, reject, execRdstat, faultOf, effect, change, answerCode, answerData]
  | false =>
    rw [if_neg (by simp)]
    cases i with
    | step =>
      change accept s (if s.defd s.curPhys = false then raise .undefinedRead (encode .step) s
        else if s.nxtZero = false then raise .nextNotClear (encode .step) s else .next (effect .step s)) = _
      rw [accept_running hf, faultOf]
      split_ifs <;> rfl
    | sendf =>
      change accept s (if s.defd s.curPhys = false then raise .undefinedRead (encode .sendf) s
        else .next (effect .sendf s)) = _
      rw [accept_running hf, faultOf]
      split_ifs <;> rfl
    | get | set | clear | rdbytes | ldseed | swap | sendc | sendinit | rdstat =>
      simp only [exec, execGet, execSet, execClear, execRdbytes, execLdseed, execSwap, execSendc, execSendinit,
        accept_running hf, raise, execRdstat, faultOf, effect, change, answerCode, answerData, done, answerXfer] <;>
      (try rw [Memory.ofBytes_zero]) <;> (try split_ifs) <;> rfl

/-- In the fault state an operation other than RDSTAT is rejected (R214). -/
theorem exec_rejected {i : Instr} {s : State} (h : s.faulted = true) (hi : runsFaulted i = false) :
    exec i s = .next (s.respond .rejected .none) := by
  rw [exec_eq, if_pos ⟨h, hi⟩]

/-- Outside the fault state an operation raises the fault that applies to it (R213). -/
theorem exec_fault {i : Instr} {s : State} {c : FaultCode} (h : s.faulted = false) (hc : faultOf i s = some c) :
    exec i s = .next ((s.enterFault c (encode i)).respond .fault .none) := by
  rw [exec_eq, if_neg (by simp [h]), hc]

/-- Outside the fault state an operation to which no fault applies has its effect. -/
theorem exec_effect {i : Instr} {s : State} (h : s.faulted = false) (hc : faultOf i s = none) :
    exec i s = .next (effect i s) := by
  rw [exec_eq, if_neg (by simp [h]), hc]

/-- RDSTAT has its effect in every state (R200, R214). -/
theorem exec_rdstat (sel : StatSel) (s : State) : exec (.rdstat sel) s = .next (s.respond .ok (.word (s.control sel))) := rfl

/-- Every operation answers a next state. -/
theorem exec_answers (i : Instr) (s : State) : ∃ t, exec i s = .next t := by
  rw [exec_eq]
  split
  · exact ⟨_, rfl⟩
  · split <;> exact ⟨_, rfl⟩

/-- What the next state of an operation can be. -/
theorem exec_cases {i : Instr} {s t : State} (h : exec i s = .next t) :
    (s.faulted = true ∧ runsFaulted i = false ∧ t = s.respond .rejected .none) ∨
      (s.faulted = false ∧ ∃ c, faultOf i s = some c ∧ t = (s.enterFault c (encode i)).respond .fault .none) ∨
      ((s.faulted = false ∨ runsFaulted i = true) ∧ faultOf i s = none ∧ t = effect i s) := by
  rw [exec_eq] at h
  split at h
  · rename_i hc
    cases h; exact .inl ⟨hc.1, hc.2, rfl⟩
  · rename_i hc
    split at h
    · rename_i c hfc
      cases h
      refine .inr (.inl ⟨?_, c, hfc, rfl⟩)
      cases hf : s.faulted with
      | false => rfl
      | true =>
        cases i <;> simp_all [runsFaulted, faultOf]
    · rename_i hfc
      cases h
      refine .inr (.inr ⟨?_, hfc, rfl⟩)
      cases hf : s.faulted <;> cases hr : runsFaulted i <;> simp_all

/-- A raised fault has a cause other than NONE (R210). -/
theorem faultOf_ne_none {i : Instr} {s : State} {c : FaultCode} (h : faultOf i s = some c) : c ≠ .none := by
  cases i <;> simp only [faultOf] at h <;> (try split_ifs at h) <;> first | (cases h; decide) | cases h

/-- A frame operation's response code is the transfer result's, any other's is OK (R74, R175). -/
theorem answerCode_ok_or (i : Instr) (s : State) : answerCode i s = .ok ∨ answerCode i s = s.xfer.result.response := by
  cases i <;> simp [answerCode]

/-- An operation changes no port but by a frame, and neither the configuration nor the inputs. -/
theorem change_ports (i : Instr) (s : State) :
    (change i s).cfg = s.cfg ∧ (change i s).inputs = s.inputs ∧ (change i s).xfer = s.xfer ∧
      (change i s).responses = s.responses := by
  cases i <;> simp [change]

/-- An operation leaves the fault fields alone where it raises no fault. -/
theorem change_fault (i : Instr) (s : State) :
    (change i s).faulted = s.faulted ∧ (change i s).faultCode = s.faultCode ∧ (change i s).faultWord = s.faultWord := by
  cases i <;> simp [change]

/-- An operation leaves OUT_LOG, LAST_XFER, the OUT port and the display's part as they are, or emits one frame. -/
theorem change_emits (i : Instr) (s : State) :
    ((change i s).outLog = s.outLog ∧ (change i s).lastXfer = s.lastXfer ∧ (change i s).wire = s.wire ∧
        (change i s).received = s.received) ∨
      ∃ kind bytes, ((kind = .data ∧ i = .sendf ∧ bytes = dataFrame (s.fb s.curPhys)) ∨
          (kind = .cmd ∧ ((i = .sendinit ∧ bytes = cmdFrame INIT_SEQ) ∨ ∃ p, i = .sendc p ∧ bytes = cmdFrame p))) ∧
        (change i s).outLog = s.outLog ++ [⟨kind, bytes, s.xfer.result⟩] ∧ (change i s).lastXfer = s.xfer.result ∧
        (change i s).wire = s.wire ++ emission bytes ∧ (change i s).received = s.received ++ [s.xfer.delivered bytes] := by
  cases i with
  | sendf => exact .inr ⟨_, _, .inl ⟨rfl, rfl, rfl⟩, rfl, rfl, rfl, rfl⟩
  | sendc p => exact .inr ⟨_, _, .inr ⟨rfl, .inr ⟨p, rfl, rfl⟩⟩, rfl, rfl, rfl, rfl⟩
  | sendinit => exact .inr ⟨_, _, .inr ⟨rfl, .inl ⟨rfl, rfl⟩⟩, rfl, rfl, rfl, rfl⟩
  | get | set | clear | rdbytes | ldseed | step | swap | rdstat => exact .inl (by simp [change])

/-! ### Ranges -/

theorem inGetRange_iff (x y : Int) : inGetRange x y = true ↔ -1 ≤ x ∧ x ≤ 128 ∧ -1 ≤ y ∧ y ≤ 64 := by
  rw [inGetRange, decide_eq_true_iff]; rfl

theorem inSetRange_iff (x y : Int) : inSetRange x y = true ↔ 0 ≤ x ∧ x < 128 ∧ 0 ≤ y ∧ y < 64 := by
  rw [inSetRange, decide_eq_true_iff]; rfl

/-! ### The step -/

/-- Everything a step can do. -/
theorem step_cases {s t : State} (h : step s = .next t) : ∃ i rest, s.inputs = i :: rest ∧ serve i rest s = .next t := by
  unfold step at h
  cases hi : s.inputs with
  | nil => rw [hi] at h; cases h
  | cons i rest => rw [hi] at h; exact ⟨i, rest, rfl, h⟩

/-- The step on a command record (R58). -/
theorem step_command {s : State} {c : Command} {rest : List Input} (h : s.inputs = .command c :: rest) :
    step s = issue c (s.takeCommand c rest) := by
  simp only [step, h, serve]

/-- A command is answered where its payload is there (R74, R81). -/
theorem issue_answers {c : Command} (h : c.payload.length = payloadLen c.word) (s : State) : ∃ t, issue c s = .next t := by
  have bad : ∀ e w, ∃ t, badWord e w s = .next t := fun e w => by
    unfold badWord accept
    split <;> exact ⟨_, rfl⟩
  unfold issue
  split
  · exact exec_answers _ _
  · rename_i hd; exact absurd h (decode_payloadLength.mp hd)
  · exact bad _ _
  · exact bad _ _

/-- Without its payload a command waits (R81). -/
theorem issue_waits {c : Command} (h : c.payload.length ≠ payloadLen c.word) (s : State) :
    issue c s = .fault .waitingForPayload := by
  rw [issue, decode_payloadLength.mpr h]

/-- What a command that is answered does (R212). -/
theorem issue_cases {c : Command} {s t : State} (h : issue c s = .next t) :
    (∃ i, decode c.word c.payload = .ok i ∧ exec i s = .next t) ∨
      (∃ e : FaultCode, (e = .illegalOpcode ∨ e = .reservedBits) ∧
        ((s.faulted = true ∧ t = s.respond .rejected .none) ∨
          (s.faulted = false ∧ t = (s.enterFault e c.word).respond .fault .none))) := by
  unfold issue at h
  split at h
  · rename_i i hd; exact .inl ⟨i, hd, h⟩
  · cases h
  · rcases accept_cases h with h | ⟨h1, h2⟩
    · exact .inr ⟨_, .inl rfl, .inl h⟩
    · cases h2; exact .inr ⟨_, .inl rfl, .inr ⟨h1, rfl⟩⟩
  · rcases accept_cases h with h | ⟨h1, h2⟩
    · exact .inr ⟨_, .inr rfl, .inl h⟩
    · cases h2; exact .inr ⟨_, .inr rfl, .inr ⟨h1, rfl⟩⟩

end Sys2Proof.Machine
end

