-- ==== Sys2Proof/Laws/Flags.lean ====
section
/-! SUPPORT. The fields of the status word (R36) and the predicates NXT_ZERO and SWAP_ALLOWED (R28, R151). -/

namespace Sys2Proof.Machine

variable (s : State)

/-- NXT_ZERO in the words of R28. -/
theorem State.nxtZero_iff :
    s.nxtZero = true ↔ s.defd (s.phys .nxt) = true ∧ ∀ a, a < FB_BYTES → (s.fb (s.phys .nxt)).read a = 0#8 := by
  rw [State.nxtZero, Bool.and_eq_true, allZero_iff]

/-- SWAP_ALLOWED in the words of R151. -/
theorem State.swapAllowed_iff :
    s.swapAllowed = true ↔ s.stepped = true ∧ (s.sent = true ∨ s.cfg.swapNeedsSend = false) := by
  simp [State.swapAllowed]

/-- The status word bit by bit (R36). -/
theorem State.getLsbD_status (k : Nat) : s.status.getLsbD k =
    if k < 1 then s.curPhys.bit.getLsbD k
    else if k < 2 then s.def0
    else if k < 3 then s.def1
    else if k < 4 then s.nxtZero
    else if k < 5 then s.stepped
    else if k < 6 then s.sent
    else if k < 7 then s.faulted
    else if k < 8 then false
    else if k < 12 then s.faultCode.code.getLsbD (k - 8)
    else if k < 14 then s.lastXfer.code.getLsbD (k - 12)
    else false := by
  have one : ∀ (b : Bool) (j : Nat), j < 1 → (BitVec.ofBool b).getLsbD j = b := fun b j h => by
    obtain rfl : j = 0 := by omega
    simp
  unfold State.status
  generalize s.nxtZero = nz, s.curPhys.bit = c, s.faultCode.code = f, s.lastXfer.code = l, s.def0 = d0, s.def1 = d1,
    s.stepped = st, s.sent = se, s.faulted = fa
  refine (BitVec.getLsbD_append (y := c)).trans ?_
  by_cases h : k < 1
  · rw [if_pos h, if_pos h]
  rw [if_neg h, if_neg h, BitVec.getLsbD_append (y := BitVec.ofBool d0)]
  by_cases h : k < 2
  · rw [if_pos (by omega), if_pos h, one _ _ (by omega)]
  rw [if_neg (by omega), if_neg h, BitVec.getLsbD_append (y := BitVec.ofBool d1)]
  by_cases h : k < 3
  · rw [if_pos (by omega), if_pos h, one _ _ (by omega)]
  rw [if_neg (by omega), if_neg h, BitVec.getLsbD_append (y := BitVec.ofBool nz)]
  by_cases h : k < 4
  · rw [if_pos (by omega), if_pos h, one _ _ (by omega)]
  rw [if_neg (by omega), if_neg h, BitVec.getLsbD_append (y := BitVec.ofBool st)]
  by_cases h : k < 5
  · rw [if_pos (by omega), if_pos h, one _ _ (by omega)]
  rw [if_neg (by omega), if_neg h, BitVec.getLsbD_append (y := BitVec.ofBool se)]
  by_cases h : k < 6
  · rw [if_pos (by omega), if_pos h, one _ _ (by omega)]
  rw [if_neg (by omega), if_neg h, BitVec.getLsbD_append (y := BitVec.ofBool fa)]
  by_cases h : k < 7
  · rw [if_pos (by omega), if_pos h, one _ _ (by omega)]
  rw [if_neg (by omega), if_neg h, BitVec.getLsbD_append (y := 0#1)]
  by_cases h : k < 8
  · rw [if_pos (by omega), if_pos h, BitVec.getLsbD_zero]
  rw [if_neg (by omega), if_neg h, BitVec.getLsbD_append (y := f)]
  by_cases h : k < 12
  · rw [if_pos (by omega), if_pos h]; simp only [Nat.sub_sub]
  rw [if_neg (by omega), if_neg h, BitVec.getLsbD_append (y := l)]
  by_cases h : k < 14
  · rw [if_pos (by omega), if_pos h]; simp only [Nat.sub_sub]
  rw [if_neg (by omega), if_neg h, BitVec.getLsbD_zero]

end Sys2Proof.Machine
end

