-- ==== Sys2Proof/Laws/PerInstr.lean ====
section
/-! SUPPORT. What holds of every operation as syntax, one lemma per constructor. -/

namespace Sys2Proof.Laws

/-- The operation code of an operation's word names that operation (R70, R76). -/
def OpField.Statement (i : Instr) : Prop := opcodeOf (opField (encode i)) = some i.opcode

theorem OpField.get (r : Role) (x : BitVec 9) (y : BitVec 8) : OpField.Statement (.get r x y) := by
  simp [Statement, encode, Instr.opcode]

theorem OpField.set (r : Role) (x : BitVec 9) (y : BitVec 8) : OpField.Statement (.set r x y) := by
  simp [Statement, encode, Instr.opcode]

theorem OpField.clear (r : Role) : OpField.Statement (.clear r) := by simp [Statement, encode, Instr.opcode]
theorem OpField.rdbytes (r : Role) : OpField.Statement (.rdbytes r) := by simp [Statement, encode, Instr.opcode]
theorem OpField.ldseed (payload : List Byte) : OpField.Statement (.ldseed payload) := by simp [Statement, encode, Instr.opcode]
theorem OpField.step : OpField.Statement .step := by simp [Statement, encode, Instr.opcode]
theorem OpField.swap : OpField.Statement .swap := by simp [Statement, encode, Instr.opcode]
theorem OpField.sendf : OpField.Statement .sendf := by simp [Statement, encode, Instr.opcode]
theorem OpField.sendc (payload : List Byte) : OpField.Statement (.sendc payload) := by simp [Statement, encode, Instr.opcode]
theorem OpField.sendinit : OpField.Statement .sendinit := by simp [Statement, encode, Instr.opcode]
theorem OpField.rdstat (sel : StatSel) : OpField.Statement (.rdstat sel) := by simp [Statement, encode, Instr.opcode]

end Sys2Proof.Laws
end

