-- ==== Sys2Proof/Laws/Port.lean ====
section
/-! SUPPORT. The OUT port: READY, the bytes written, and the order of events (R170, R176, R251). -/

namespace Sys2Proof.Machine

theorem readyAfter_append (r : Bool) (a b : List WireEvent) : readyAfter r (a ++ b) = readyAfter (readyAfter r a) b := by
  induction a generalizing r with
  | nil => rfl
  | cons e a ih => cases e <;> simp [readyAfter, ih]

theorem readyAfter_writes (r : Bool) (bs : List Byte) : readyAfter r (bs.map .write) = r := by
  induction bs with
  | nil => rfl
  | cons b bs ih => simpa [readyAfter] using ih

/-- Every emission ends with READY de-asserted (R176). -/
theorem readyAfter_emission (r : Bool) (bs : List Byte) : readyAfter r (emission bs) = false := by
  simp [emission, readyAfter, readyAfter_append]

/-- So does an emission cut short by RST (R250). -/
theorem readyAfter_cutEmission (k : Nat) (bs : List Byte) : readyAfter false (cutEmission k bs) = false := by
  rw [cutEmission, readyAfter_append]
  split <;> simp_all [readyAfter]

theorem written_append (a b : List WireEvent) : written (a ++ b) = written a ++ written b := by
  induction a with
  | nil => rfl
  | cons e a ih => cases e <;> simp [written, ih]

@[simp] theorem written_writes (bs : List Byte) : written (bs.map .write) = bs := by
  induction bs with
  | nil => rfl
  | cons b bs ih => simp [written, ih]

/-- The bytes written by an emission are those of its frame, in order (R170). -/
@[simp] theorem written_emission (bs : List Byte) : written (emission bs) = bs := by
  simp [emission, written, written_append]

/-- The bytes written by the first `k` events of an emission: READY comes first. -/
theorem written_take_emission (k : Nat) (bs : List Byte) : written ((emission bs).take k) = bs.take (k - 1) := by
  cases k with
  | zero => simp [written]
  | succ k =>
    have tail : ∀ j : Nat, written (([.flush, .deassertReady] : List WireEvent).take j) = [] := fun j => by
      rcases j with _ | _ | j <;> simp [written]
    have : (emission bs).take (k + 1) =
        WireEvent.assertReady :: (bs.map WireEvent.write ++ [WireEvent.flush, WireEvent.deassertReady]).take k := rfl
    rw [this, written, List.take_append, written_append, tail, List.append_nil, ← List.map_take, written_writes]
    rfl

theorem wireOrder_append (r : Bool) (a b : List WireEvent) :
    wireOrder r (a ++ b) = (wireOrder r a && wireOrder (readyAfter r a) b) := by
  induction a generalizing r with
  | nil => rfl
  | cons e a ih => cases e <;> simp [wireOrder, readyAfter, ih, Bool.and_assoc]

theorem wireOrder_writes (bs : List Byte) : wireOrder true (bs.map .write) = true := by
  induction bs with
  | nil => rfl
  | cons b bs ih => simpa [wireOrder] using ih

/-- An emission keeps the order of the OUT port (R170). -/
theorem wireOrder_emission (bs : List Byte) : wireOrder false (emission bs) = true := by
  simp [emission, wireOrder, wireOrder_append, readyAfter_writes, wireOrder_writes]

/-- So does an emission cut short by RST (R251). -/
theorem wireOrder_cutEmission (k : Nat) (bs : List Byte) : wireOrder false (cutEmission k bs) = true := by
  have h : wireOrder false ((emission bs).take k) = true := by
    have := wireOrder_emission bs
    rw [← List.take_append_drop k (emission bs), wireOrder_append, Bool.and_eq_true] at this
    exact this.1
  rw [cutEmission, wireOrder_append, h]
  split <;> simp_all [wireOrder]

end Sys2Proof.Machine
end

