-- ==== Sys2Proof/Laws/Reference.lean ====
section
/-! SUPPORT. The terms of the claims (Safety.lean) against those of the machine. -/

namespace Sys2Proof.Machine

/-- A sequence of operations in two parts. -/
theorem execAll_append {is js : List Instr} {s t : State} (h : execAll is s = .next t) :
    execAll (is ++ js) s = execAll js t := by
  induction is generalizing s with
  | nil => cases h; rfl
  | cons i is ih =>
    simp only [List.cons_append, execAll] at h ⊢
    cases he : exec i s with
    | next u => rw [he] at h; exact ih h
    | fault f => rw [he] at h; cases h
    | refused r => rw [he] at h; cases h

theorem opNumber_eq (w : Word) : opNumber w = (opField w).toNat := by
  simp only [opNumber, opField, BitVec.extractLsb'_toNat, Nat.shiftRight_eq_div_pow]
  have := w.isLt
  omega

/-- The payload a word asks for, by the rule and by the decoder (R73). -/
theorem lenAsked_eq (w : Word) : lenAsked w = payloadLen w := by
  have codes : ∀ op : BitVec 4,
      (op.toNat = 5 ∨ op.toNat = 9) ↔ (opcodeOf op = some .LDSEED ∨ opcodeOf op = some .SENDC) := by decide
  rw [lenAsked, payloadLen, opNumber_eq]
  by_cases h : (opField w).toNat = 5 ∨ (opField w).toNat = 9
  · have e : w.toNat % 2 ^ 11 = (lenField w).toNat := by simp [lenField, BitVec.extractLsb'_toNat]
    rw [if_pos h]
    rcases (codes _).mp h with h | h <;> rw [h] <;> exact e
  · have := fun x => h ((codes (opField w)).mpr x)
    rw [if_neg h]
    split <;> simp_all

/-- A cell of the torus whose coordinates are in range is a cell (R50). -/
theorem torusCell_of_range (m : Memory) {x y : Nat} (hx : x < W) (hy : y < H) : torusCell m x y = cell m x y := by
  simp only [W, H] at hx hy
  have h1 : ((x : Int) % 128).toNat = x := by omega
  have h2 : ((y : Int) % 64).toNat = y := by omega
  rw [torusCell, h1, h2]; rfl

/-- A cell of the torus is the cell at the remainders (R101). -/
theorem torusCell_eq (m : Memory) (x y : Int) : torusCell m x y = cell m (x % 128).toNat (y % 64).toNat := rfl

theorem torusCell_congr (m : Memory) {x y x' y' : Int} (hx : x % 128 = x' % 128) (hy : y % 64 = y' % 64) :
    torusCell m x y = torusCell m x' y' := by
  rw [torusCell_eq, torusCell_eq, hx, hy]

/-- A cell within one unit of the grid is that cell of the torus (R101). -/
theorem wrappedCell_eq_torusCell (m : Memory) {x y : Int} (hx : -1 ≤ x ∧ x ≤ 128) (hy : -1 ≤ y ∧ y ≤ 64) :
    wrappedCell m x y = torusCell m x y := by
  rw [wrappedCell_eq m hx hy, torusCell_eq]

/-- The neighbour counter counts the live cells at the nine offsets but (0, 0) (R141). -/
theorem count_eq_torusCount (m : Memory) {x y : Nat} (hx : x < W) (hy : y < H) : count m x y = torusCount m x y := by
  simp only [W, H] at hx hy
  have near : ∀ d ∈ neighbours, wrappedCell m (x + d.1) (y + d.2) = torusCell m (x + d.1) (y + d.2) := fun d hd => by
    have ⟨h1, h2⟩ := neighbours_near hd
    exact wrappedCell_eq_torusCell m (by omega) (by omega)
  have sum : ∀ (l : List (Int × Int)) (f : Int × Int → Bool), (l.map fun d => (f d).toNat).sum = (l.filter f).length := by
    intro l f
    induction l with
    | nil => rfl
    | cons d l ih => cases hf : f d <;> simp [ih, hf]; omega
  have offsets : ([-1, 0, 1].product [-1, 0, 1]).filter (fun d : Int × Int => decide (d ≠ (0, 0))) = neighbours := by decide
  rw [count, List.map_congr_left fun d hd => congrArg Bool.toNat (near d hd),
    sum neighbours fun d => torusCell m (x + d.1) (y + d.2), torusCount, ← offsets, List.filter_filter]
  simp only [Bool.and_comm]

/-- The neighbour count on the torus depends on the remainders alone. -/
theorem torusCount_congr (m : Memory) {x y x' y' : Int} (hx : x % 128 = x' % 128) (hy : y % 64 = y' % 64) :
    torusCount m x y = torusCount m x' y' := by
  have : ∀ d : Int × Int, torusCell m (x + d.1) (y + d.2) = torusCell m (x' + d.1) (y' + d.2) := fun d =>
    torusCell_congr m (by omega) (by omega)
  simp only [torusCount, this]

/-- Life on the torus (R142, R143). -/
theorem torusCell_life (m : Memory) (x y : Int) :
    torusCell (life m) x y =
      decide (torusCount m x y = 3 ∨ (torusCell m x y = true ∧ torusCount m x y = 2)) := by
  have hx : (x % 128).toNat < W := by simp only [W]; omega
  have hy : (y % 64).toNat < H := by simp only [H]; omega
  have hc : torusCount m x y = count m (x % 128).toNat (y % 64).toNat := by
    rw [count_eq_torusCount m hx hy]
    exact torusCount_congr m (by omega) (by omega)
  rw [torusCell_eq, cell_life m hx hy, lifeCell, hc, torusCell_eq, Bool.eq_iff_iff, lifeRule_iff, decide_eq_true_iff]

/-- Two canonical memories with the same cells on the torus are equal data. -/
theorem eq_of_torusCells {m n : Memory} (hm : m.wf = true) (hn : n.wf = true)
    (h : ∀ x y, torusCell m x y = torusCell n x y) : m = n :=
  Memory.ext_of_wf_lt hm hn fun a ha => read_eq_of_cells (fun x y hx hy => by
    rw [← torusCell_of_range m hx hy, ← torusCell_of_range n hx hy, h]) ha

end Sys2Proof.Machine
end

