-- ==== Sys2Proof/Machine/AsmText.lean ====
section
/-! DEFINITION. The assembly syntax as text (R82, R83): one operation on a line, the mnemonic, then the operands with commas
between them. Blanks and the digits of a byte are log entry 15. -/

namespace Sys2Proof.Machine

/-- The named constants of a source program, such as SEED (R82). -/
abbrev Constants := List (List Char × List Byte)

/-- A blank between words. -/
def isBlank (c : Char) : Bool := c == ' ' || c == '\t'

/-- The text without blanks at its ends. -/
def trimBlanks (cs : List Char) : List Char := ((cs.dropWhile isBlank).reverse.dropWhile isBlank).reverse

/-- The text between commas. -/
def commaFields : List Char → List (List Char)
  | [] => [[]]
  | c :: cs =>
    if c == ',' then [] :: commaFields cs
    else match commaFields cs with
      | [] => [[c]]
      | f :: fs => (c :: f) :: fs

/-- The operands of a line, none where nothing stands after the mnemonic. -/
def operandTexts (cs : List Char) : List (List Char) :=
  if (trimBlanks cs).isEmpty then [] else (commaFields cs).map trimBlanks

/-- The value of a digit in a base of at most 16. -/
def digitValue (base : Nat) (c : Char) : Option Nat :=
  let v :=
    if '0' ≤ c ∧ c ≤ '9' then c.toNat - '0'.toNat
    else if 'a' ≤ c ∧ c ≤ 'f' then c.toNat - 'a'.toNat + 10
    else if 'A' ≤ c ∧ c ≤ 'F' then c.toNat - 'A'.toNat + 10
    else 16
  if v < base then some v else none

/-- The value of the digits `cs` after digits of value `acc`. -/
def digitsValue (base acc : Nat) : List Char → Option Nat
  | [] => some acc
  | c :: cs => (digitValue base c).bind fun v => digitsValue base (acc * base + v) cs

/-- A decimal integer, negative allowed (R82). -/
def readInteger : List Char → Option Int
  | [] => none
  | c :: cs =>
    if c == '-' then (if cs.isEmpty then none else (digitsValue 10 0 cs).map fun n => -(n : Int))
    else (digitsValue 10 0 (c :: cs)).map fun n => (n : Int)

/-- A byte written as 0x and one or two digits (R82). -/
def readByte : List Char → Option Byte
  | ['0', 'x', d] => (digitsValue 16 0 [d]).map (BitVec.ofNat 8)
  | ['0', 'x', d, e] => (digitsValue 16 0 [d, e]).map (BitVec.ofNat 8)
  | _ => none

/-- One item of a list of bytes: a byte, or a named constant (R82). -/
def readBytesItem (k : Constants) (cs : List Char) : Option (List Byte) :=
  match readByte cs with
  | some b => some [b]
  | none => k.lookup cs

/-- A list of bytes (R82). -/
def readBytes (k : Constants) : List (List Char) → Option (List Byte)
  | [] => some []
  | cs :: rest => (readBytesItem k cs).bind fun b => (readBytes k rest).map fun bs => b ++ bs

/-- A role operand, `cur` or `nxt` (R82). -/
def readRole (cs : List Char) : Option Role :=
  if cs = "cur".toList then some .cur else if cs = "nxt".toList then some .nxt else none

/-- The operands `cur|nxt, <x>, <y>` (R82). -/
def readCell (f : Role → Int → Int → AsmLine) : List (List Char) → Option AsmLine
  | [r, x, y] => (readRole r).bind fun r => (readInteger x).bind fun x => (readInteger y).map fun y => f r x y
  | _ => none

/-- The operand `cur|nxt` (R82). -/
def readBuffer (f : Role → AsmLine) : List (List Char) → Option AsmLine
  | [r] => (readRole r).map f
  | _ => none

/-- The operand of RDSTAT: none or `status`, or `fault` (R82). -/
def readSelector : List (List Char) → Option AsmLine
  | [] => some (.rdstat .status)
  | [s] =>
    if s = "status".toList then some (.rdstat .status) else if s = "fault".toList then some (.rdstat .fault) else none
  | _ => none

/-- What a line without operands stands for. -/
def alone {α : Type} (a : α) : List (List Char) → Option α
  | [] => some a
  | _ => none

/-- The operation of a mnemonic with its operands (R82). -/
def readOperation (k : Constants) (mnemonic : List Char) (ops : List (List Char)) : Option AsmLine :=
  if mnemonic = "GET".toList then readCell .get ops
  else if mnemonic = "SET".toList then readCell .set ops
  else if mnemonic = "CLEAR".toList then readBuffer .clear ops
  else if mnemonic = "RDBYTES".toList then readBuffer .rdbytes ops
  else if mnemonic = "LDSEED".toList then (readBytes k ops).map .ldseed
  else if mnemonic = "STEP".toList then alone .step ops
  else if mnemonic = "SWAP".toList then alone .swap ops
  else if mnemonic = "SENDF".toList then alone .sendf ops
  else if mnemonic = "SENDINIT".toList then alone .sendinit ops
  else if mnemonic = "SENDC".toList then (readBytes k ops).map .sendc
  else if mnemonic = "RDSTAT".toList then readSelector ops
  else none

/-- The expansion of a pseudo-instruction with its operands (R83). -/
def readPseudo (k : Constants) (mnemonic : List Char) (ops : List (List Char)) : Option (List Instr) :=
  if mnemonic = "BOOT".toList then
    (readBytes k ops).bind fun seed => (assemble (.ldseed seed)).map fun _ => boot seed
  else if mnemonic = "GEN".toList then alone gen ops
  else if mnemonic = "GENQ".toList then alone genq ops
  else if mnemonic = "CLEARALL".toList then alone clearall ops
  else if mnemonic = "RDFAULT".toList then alone rdfault ops
  else none

/-- One line of assembly: an operation, or a pseudo-instruction with its expansion (R82, R83). -/
def assembleText (k : Constants) (line : List Char) : Option (List Instr) :=
  let cs := line.dropWhile isBlank
  let mnemonic := cs.takeWhile fun c => !isBlank c
  let ops := operandTexts (cs.drop mnemonic.length)
  match readOperation k mnemonic ops with
  | some a => (assemble a).map fun i => [i]
  | none => readPseudo k mnemonic ops

/-- A program, line by line (R82). -/
def assembleProgram (k : Constants) : List (List Char) → Option (List Instr)
  | [] => some []
  | line :: rest => (assembleText k line).bind fun is => (assembleProgram k rest).map fun js => is ++ js

end Sys2Proof.Machine
end

