-- ==== Sys2Proof/Tests/Slice0.lean ====
section
/-! SUPPORT. The model's own tests: words written out from R84 and V-E1, single operations from spec/95_test_vectors.md, and
for each statement with hypotheses a state and operands that meet them. -/

namespace Sys2Proof.Tests

open Sys2Proof Sys2Proof.Machine

-- One theorem at a time: many kernel evaluations at once take more threads than the check's memory limit leaves.
set_option Elab.async false

/-! ### WellFormed (R73, R82): LEN has 11 bits -/

theorem test_wellFormed_refuses_long_seed : (Instr.ldseed (List.replicate 2048 0x00#8)).wellFormed = false := by decide +kernel
theorem test_wellFormed_refuses_long_command : (Instr.sendc (List.replicate 2048 0x00#8)).wellFormed = false := by decide +kernel
theorem test_wellFormed_accepts_2047 : (Instr.sendc (List.replicate 2047 0x00#8)).wellFormed = true := by decide +kernel

/-! ### Decoding words written out from the spec (R84, V-E1) -/

/-- V-E1, the field checks: OP 0001, R 0, X 0x1FF = -1, Y 0xFF = -1. -/
theorem test_decode_get : decode 0x17FFFC00#32 [] = .ok (.get .cur (-1) (-1)) := by decide
/-- V-E1: R 1, X 0x080 = 128, Y 0x40 = 64. -/
theorem test_decode_get_nxt : decode 0x1A010000#32 [] = .ok (.get .nxt 128 64) := by decide
theorem test_decode_get_mixed : decode 0x1203FC00#32 [] = .ok (.get .cur 128 (-1)) := by decide
theorem test_decode_set : decode 0x20143400#32 [] = .ok (.set .cur 5 13) := by decide
theorem test_decode_set_corner : decode 0x21FCFC00#32 [] = .ok (.set .cur 127 63) := by decide
theorem test_decode_clear : decode 0x30000000#32 [] = .ok (.clear .cur) ∧ decode 0x38000000#32 [] = .ok (.clear .nxt) := by decide
theorem test_decode_rdbytes :
    decode 0x40000000#32 [] = .ok (.rdbytes .cur) ∧ decode 0x48000000#32 [] = .ok (.rdbytes .nxt) := by decide
theorem test_decode_ldseed :
    decode 0x50000400#32 (List.replicate 1024 0xFF#8) = .ok (.ldseed (List.replicate 1024 0xFF#8)) := by decide +kernel
theorem test_decode_step : decode 0x60000000#32 [] = .ok .step := by decide
theorem test_decode_swap : decode 0x70000000#32 [] = .ok .swap := by decide
theorem test_decode_sendf : decode 0x80000000#32 [] = .ok .sendf := by decide
theorem test_decode_sendc : decode 0x90000001#32 [0xAE#8] = .ok (.sendc [0xAE#8]) := by decide
theorem test_decode_sendinit : decode 0xA0000000#32 [] = .ok .sendinit := by decide
theorem test_decode_rdstat :
    decode 0xB0000000#32 [] = .ok (.rdstat .status) ∧ decode 0xB8000000#32 [] = .ok (.rdstat .fault) := by decide

/-- V-E2. -/
theorem test_decode_illegal :
    decode 0x00000000#32 [] = .error .illegalOpcode ∧ decode 0xC0000000#32 [] = .error .illegalOpcode ∧
      decode 0xF0000000#32 [] = .error .illegalOpcode := by decide
/-- V-E2. -/
theorem test_decode_reserved :
    decode 0x60000001#32 [] = .error .reservedBits ∧ decode 0x10000001#32 [] = .error .reservedBits ∧
      decode 0x34000000#32 [] = .error .reservedBits := by decide

/-- R84, the words of the assembler's lines (R82). -/
theorem test_assemble :
    (assemble (.get .cur (-1) (-1))).map encode = some 0x17FFFC00#32 ∧
      (assemble (.get .nxt 128 64)).map encode = some 0x1A010000#32 ∧
      (assemble (.set .cur 5 13)).map encode = some 0x20143400#32 ∧
      (assemble (.sendc (List.replicate 11 0x00#8))).map encode = some 0x9000000B#32 ∧
      (assemble (.get .cur 256 0)) = none := by decide

/-- The words of a line of assembly without named constants. -/
def textWords (line : String) : Option (List Word) := (assembleText [] line.toList).map fun is => is.map encode

/-- R84 and V-E1, the lines as text. -/
theorem test_assembleText :
    textWords "GET cur, -1, -1" = some [0x17FFFC00#32] ∧ textWords "GET nxt, 128, 64" = some [0x1A010000#32] ∧
      textWords "SET cur,5,13" = some [0x20143400#32] ∧ textWords "CLEAR nxt" = some [0x38000000#32] ∧
      textWords "SENDC 0xAE" = some [0x90000001#32] ∧ textWords "RDSTAT" = some [0xB0000000#32] ∧
      textWords "RDSTAT fault" = some [0xB8000000#32] ∧ textWords "GET cur, 256, 0" = none ∧
      textWords "SET cur, 0, -129" = none := by decide +kernel
/-- R83, the expansions. -/
theorem test_assemblePseudo :
    textWords "GEN" = some [0x60000000#32, 0x80000000#32, 0x70000000#32, 0x38000000#32] ∧
      textWords "CLEARALL" = some [0x30000000#32, 0x38000000#32] ∧ textWords "RDFAULT" = some [0xB8000000#32] ∧
      ((assembleText [("SEED".toList, List.replicate 1024 0xFF#8)] "BOOT SEED".toList).map fun is => is.map encode) =
        some [0x50000400#32, 0x38000000#32, 0xA0000000#32] := by decide +kernel

/-- The numbering of spec/opcode_table.json: LEN bytes of zeros where the table gives the payload no bits. -/
theorem test_table_word :
    decodeTableWord 32 0x17FFFC00 = some (.get .cur (-1) (-1)) ∧ decodeTableWord 32 0x90000002 = some (.sendc [0x00#8, 0x00#8]) ∧
      decodeTableWord 40 0xAE90000001 = some (.sendc [0xAE#8]) ∧ decodeTableWord 32 0xC0000000 = none := by decide +kernel

/-! ### Single operations -/

/-- Both buffers defined and empty: STATUS 0x0000000E (V-F7). -/
def blank : State := { State.reset with def0 := true, def1 := true }

/-- After a STEP of it: STATUS 0x0000001E (V-F9). -/
def locked : State := { blank with stepped := true }

/-- The pixels of P4 in current, next undefined: STATUS 0x00000002. -/
def pixels : State := { State.reset with fb0 := [(133, 0x20#8), (1023, 0x80#8)], def0 := true }

/-- The fault state of V-C2: STATUS 0x00000140. -/
def stopped : State := { State.reset with faulted := true, faultCode := .illegalOpcode }

/-- The end of P3: STATUS 0x00000847. -/
def uncleared : State where
  __ := blank
  fb0 := [(138, 0x0C#8), (139, 0x0C#8)]
  fb1 := [(138, 0x0C#8), (139, 0x0C#8)]
  curPhys := .b1
  faulted := true
  faultCode := .nextNotClear
  faultWord := 0x60000000#32

/-- A command record. -/
def record (w : Word) (p : List Byte) (r : Xfer) : Command := ⟨w, p, ⟨r, 0⟩⟩

/-- The state with one command pending. -/
def pending (s : State) (c : Command) : State := { s with inputs := [.command c] }

/-- The state a step leaves. -/
def landing : Result → Option State
  | .next t => some t
  | .fault _ => none
  | .refused _ => none

/-- The response code, the response data and STATUS after one command. -/
def answer (s : State) (c : Command) : Option (BitVec 8 × RespData × Word) :=
  (landing (step (pending s c))).bind fun t => t.responses.getLast?.map fun r => (r.code.byte, r.data, t.status)

/-- The seed of P1: 1024 bytes, zero but bytes 128, 129 and 255. -/
def seamSeed : List Byte :=
  List.replicate 128 0x00#8 ++ [0x04#8, 0x04#8] ++ List.replicate 125 0x00#8 ++ [0x04#8] ++ List.replicate 768 0x00#8

/-- P4 lines 6 and 7. -/
theorem test_get_wraps :
    answer pixels (record 0x17FFFC00#32 [] .ok) = some (0x00#8, .bit 1#1, 0x00000002#32) ∧
      answer pixels (record 0x12010000#32 [] .ok) = some (0x00#8, .bit 0#1, 0x00000002#32) := by decide +kernel
/-- V-F4 (the range comes first) and V-F6. -/
theorem test_get_faults :
    answer State.reset (record 0x17F80000#32 [] .ok) = some (0x01#8, .none, 0x00000540#32) ∧
      answer State.reset (record 0x10010400#32 [] .ok) = some (0x01#8, .none, 0x00000540#32) ∧
      answer State.reset (record 0x10000000#32 [] .ok) = some (0x01#8, .none, 0x00000740#32) := by decide +kernel

/-- V-F1 and V-F3: byte 133 = 0x20, once set and set again. -/
theorem test_set_bit :
    (landing (exec (.set .cur 5 13) blank)).map State.fb0 = some [(133, 0x20#8)] ∧
      (landing (exec (.set .cur 5 13) pixels)).map State.fb0 = some pixels.fb0 ∧
      (landing (exec (.set .nxt 1 63) blank)).map State.fb1 = some [(897, 0x80#8)] := by decide +kernel
/-- V-F4, V-F5 and V-F9. -/
theorem test_set_faults :
    answer State.reset (record 0x22000000#32 [] .ok) = some (0x01#8, .none, 0x00000540#32) ∧
      answer State.reset (record 0x20000000#32 [] .ok) = some (0x00#8, .none, 0x00000000#32) ∧
      answer locked (record 0x20040400#32 [] .ok) = some (0x01#8, .none, 0x0000065E#32) := by decide +kernel

/-- V-F7. -/
theorem test_clear :
    answer State.reset (record 0x30000000#32 [] .ok) = some (0x00#8, .none, 0x00000002#32) ∧
      answer State.reset (record 0x38000000#32 [] .ok) = some (0x00#8, .none, 0x0000000C#32) := by decide +kernel
/-- V-F9. -/
theorem test_clear_locked :
    answer locked (record 0x38000000#32 [] .ok) = some (0x01#8, .none, 0x0000065E#32) := by decide +kernel

/-- P4 line 9: byte 133 = 0x20 and byte 1023 = 0x80, 1024 bytes. -/
theorem test_rdbytes :
    (answer pixels (record 0x40000000#32 [] .ok)).map (fun a => match a.2.1 with
      | .bytes bs => (bs.length, bs[133]?, bs[1023]?, (bs.filter (· ≠ 0x00#8)).length)
      | _ => (0, none, none, 0)) = some (1024, some 0x20#8, some 0x80#8, 2) := by decide +kernel
/-- V-F6. -/
theorem test_rdbytes_undefined :
    answer State.reset (record 0x48000000#32 [] .ok) = some (0x01#8, .none, 0x00000740#32) := by decide +kernel

/-- P1 line 1 and R106's example. -/
theorem test_ldseed :
    answer State.reset (record 0x50000400#32 seamSeed .ok) = some (0x00#8, .none, 0x00000002#32) ∧
      (landing (exec (.ldseed seamSeed) State.reset)).map State.fb0 =
        some [(128, 0x04#8), (129, 0x04#8), (255, 0x04#8)] := by decide +kernel
/-- V-F8 and V-C3. -/
theorem test_ldseed_faults :
    answer State.reset (record 0x500003FF#32 (List.replicate 1023 0x00#8) .ok) = some (0x01#8, .none, 0x00000340#32) ∧
      answer State.reset (record 0x50000000#32 [] .ok) = some (0x01#8, .none, 0x00000340#32) ∧
      answer stopped (record 0x50000400#32 seamSeed .ok) = some (0x02#8, .none, 0x00000140#32) := by decide +kernel

/-- V-L0. -/
theorem test_rule :
    (List.range 9).map (lifeRule false) = [false, false, false, true, false, false, false, false, false] ∧
      (List.range 9).map (lifeRule true) = [false, false, true, true, false, false, false, false, false] := by decide
/-- V-L1: the eight neighbours of (0, 0) on the torus count 1; (0, 0), (2, 2) and (126, 62) count 0. -/
theorem test_count :
    ([(127, 63), (0, 63), (1, 63), (127, 0), (1, 0), (127, 1), (0, 1), (1, 1)].map fun c : Nat × Nat =>
        count [(0, 0x01#8)] c.1 c.2) = [1, 1, 1, 1, 1, 1, 1, 1] ∧
      count [(0, 0x01#8)] 0 0 = 0 ∧ count [(0, 0x01#8)] 2 2 = 0 ∧ count [(0, 0x01#8)] 126 62 = 0 := by decide +kernel
/-- V-L6: the blinker across the x seam. -/
theorem test_life_x_seam :
    lifeByte [(128, 0x04#8), (129, 0x04#8), (255, 0x04#8)] 128 = 0x0E#8 ∧
      lifeByte [(128, 0x04#8), (129, 0x04#8), (255, 0x04#8)] 129 = 0x00#8 ∧
      lifeByte [(128, 0x04#8), (129, 0x04#8), (255, 0x04#8)] 255 = 0x00#8 ∧
      lifeByte [(128, 0x0E#8)] 255 = 0x04#8 := by decide +kernel
/-- V-L7: the blinker across the y seam. -/
theorem test_life_y_seam :
    lifeByte [(5, 0x03#8), (901, 0x80#8)] 4 = 0x01#8 ∧ lifeByte [(5, 0x03#8), (901, 0x80#8)] 5 = 0x01#8 ∧
      lifeByte [(5, 0x03#8), (901, 0x80#8)] 901 = 0x00#8 ∧ lifeByte [(4, 0x01#8), (5, 0x01#8), (6, 0x01#8)] 901 = 0x80#8 := by
  decide +kernel
/-- V-L8: generations 0 to 1 of the glider, bytes 0 to 2. -/
theorem test_life_glider :
    [0, 1, 2].map (lifeByte [(0, 0x04#8), (1, 0x05#8), (2, 0x06#8)]) = [0x02#8, 0x0C#8, 0x06#8] := by decide +kernel

/-- V-L13, second part, and V-F9: a STEP of the empty grid. -/
theorem test_step_empty :
    answer blank (record 0x60000000#32 [] .ok) = some (0x00#8, .none, 0x0000001E#32) := by
  have h : step (pending blank (record 0x60000000#32 [] .ok)) =
      .next { locked with responses := [⟨.ok, .none⟩] } := by
    have := step_command (s := pending blank (record 0x60000000#32 [] .ok)) rfl
    rw [this, issue, show decode (record 0x60000000#32 [] .ok).word (record 0x60000000#32 [] .ok).payload = .ok .step by decide]
    change exec .step _ = _
    rw [exec_effect rfl (by decide +kernel), effect, change]
    change Host.Outcome.next (State.respond (State.markStepped (State.setFb _ .b1 (life []))) _ _) = _
    rw [life_nil]; rfl
  rw [answer, h]; decide +kernel
/-- P3 line 10, V-L13 and V-F6. -/
theorem test_step_faults :
    answer { blank with fb0 := [(138, 0x0C#8)], curPhys := .b1 } (record 0x60000000#32 [] .ok) =
        some (0x01#8, .none, 0x00000847#32) ∧
      answer pixels (record 0x60000000#32 [] .ok) = some (0x01#8, .none, 0x00000842#32) ∧
      answer State.reset (record 0x60000000#32 [] .ok) = some (0x01#8, .none, 0x00000740#32) := by decide +kernel

/-- V-X6 first row, and V-L14 with P_SWAP_NEEDS_SEND = false. -/
theorem test_swap :
    answer { locked with sent := true } (record 0x70000000#32 [] .ok) = some (0x00#8, .none, 0x0000000F#32) ∧
      answer { locked with cfg := ⟨false⟩ } (record 0x70000000#32 [] .ok) = some (0x00#8, .none, 0x0000000F#32) := by
  decide +kernel
/-- V-L14. -/
theorem test_swap_faults :
    answer locked (record 0x70000000#32 [] .ok) = some (0x01#8, .none, 0x0000095E#32) ∧
      answer State.reset (record 0x70000000#32 [] .ok) = some (0x01#8, .none, 0x00000940#32) := by decide +kernel

/-- V-X6: the four transfer results. -/
theorem test_sendf_results :
    answer locked (record 0x80000000#32 [] .ok) = some (0x00#8, .none, 0x0000003E#32) ∧
      answer locked (record 0x80000000#32 [] .deviceNotFound) = some (0x10#8, .none, 0x0000101E#32) ∧
      answer locked (record 0x80000000#32 [] .transportTimeout) = some (0x11#8, .none, 0x0000201E#32) ∧
      answer locked (record 0x80000000#32 [] .transportIoError) = some (0x12#8, .none, 0x0000301E#32) := by decide +kernel
/-- P4 lines 11 and 13: the frame map {135: 0x20, 1025: 0x80}. -/
theorem test_sendf_frame :
    (landing (exec .sendf pixels)).map (fun t => t.outLog.map fun f => (f.bytes.length, f.bytes.take 2)) =
        some [(1026, [0x78#8, 0x40#8])] ∧
      (landing (exec .sendf pixels)).map (fun t => t.outLog.map fun f => (f.bytes[135]?, f.bytes[1025]?)) =
        some [(some 0x20#8, some 0x80#8)] := by decide +kernel

/-- V-X5. -/
theorem test_sendc :
    (landing (exec (.sendc [0xAE#8]) State.reset)).map State.outLog = some [⟨.cmd, [0x78#8, 0x00#8, 0xAE#8], .ok⟩] ∧
      answer State.reset (record 0x90000000#32 [] .ok) = some (0x01#8, .none, 0x00000440#32) := by decide +kernel

/-- V-X4 and V-X6: the 13 bytes, and a transport without a device. -/
theorem test_sendinit :
    (landing (exec .sendinit State.reset)).map State.outLog = some [⟨.cmd,
        [0x78#8, 0x00#8, 0xA8#8, 0x3F#8, 0x8D#8, 0x14#8, 0x20#8, 0x00#8, 0xC8#8, 0xA1#8, 0xDA#8, 0x12#8, 0xAF#8], .ok⟩] ∧
      answer State.reset (record 0xA0000000#32 [] .deviceNotFound) = some (0x10#8, .none, 0x00001000#32) := by decide +kernel
/-- R170, R175: the events of a two-byte prefix that reached the display before a timeout. -/
theorem test_sendc_port :
    (landing (exec (.sendc [0xAE#8]) { State.reset with xfer := ⟨.transportTimeout, 2⟩ })).map (fun t => (t.wire, t.received)) =
      some ([.assertReady, .write 0x78#8, .write 0x00#8, .write 0xAE#8, .flush, .deassertReady], [[0x78#8, 0x00#8]]) := by
  decide +kernel

/-- V-C1, and P3 lines 12 and 13. -/
theorem test_rdstat :
    answer State.reset (record 0xB0000000#32 [] .ok) = some (0x00#8, .word 0x00000000#32, 0x00000000#32) ∧
      answer uncleared (record 0xB0000000#32 [] .ok) = some (0x00#8, .word 0x00000847#32, 0x00000847#32) ∧
      answer uncleared (record 0xB8000000#32 [] .ok) = some (0x00#8, .word 0x60000000#32, 0x00000847#32) := by decide +kernel
/-- V-C2. -/
theorem test_sticky :
    answer State.reset (record 0x00000000#32 [] .ok) = some (0x01#8, .none, 0x00000140#32) ∧
      answer stopped (record 0xF0000000#32 [] .ok) = some (0x02#8, .none, 0x00000140#32) ∧
      answer stopped (record 0xB0000000#32 [] .ok) = some (0x00#8, .word 0x00000140#32, 0x00000140#32) ∧
      answer stopped (record 0xB0000001#32 [] .ok) = some (0x02#8, .none, 0x00000140#32) := by decide +kernel
/-- V-E2. -/
theorem test_reserved_bits :
    answer State.reset (record 0x34000000#32 [] .ok) = some (0x01#8, .none, 0x00000240#32) ∧
      answer State.reset (record 0xF0000000#32 [] .ok) = some (0x01#8, .none, 0x00000140#32) := by decide +kernel

/-- R250: RST leaves the fault state. -/
theorem test_rst : (landing (step { stopped with inputs := [.rst] })).map (fun t => (t.faulted, t.status)) =
    some (false, 0x00000000#32) := by decide +kernel

/-- R251: RST after READY and two bytes of SENDC AE, of which one reached the display. -/
theorem test_rst_during :
    (landing (step { State.reset with inputs := [.rstDuring (record 0x90000001#32 [0xAE#8] .ok) 3 1] })).map
        (fun t => (t.wire, t.received, t.responses, t.outLog)) =
      some ([.assertReady, .write 0x78#8, .write 0x00#8, .deassertReady], [[0x78#8]], [], []) := by decide +kernel

/-- An instruction given by its number is the next one served. -/
theorem test_fetch_word :
    (landing (step (State.reset.withFetchWord 32 0x38000000))).map State.def1 = some true := by decide +kernel

/-! ### Witnesses: for each statement with hypotheses, concrete values that meet them together -/

theorem witness_DecodeInvertsEncode :
    (Instr.ldseed (List.replicate 2047 0xFF#8)).wellFormed = true ∧ (Instr.get .nxt (-256) 127).wellFormed = true := by
  decide +kernel

theorem witness_WorkedWordsDecode :
    (List.replicate 1024 0x00#8).length = 1024 ∧ (List.replicate 11 0x00#8).length = 11 := by decide +kernel

theorem witness_EncodeInvertsDecode :
    decode 0x90000001#32 [0xAE#8] = .ok (.sendc [0xAE#8]) ∧ decode 0xB8000000#32 [] = .ok (.rdstat .fault) := by decide

/-- A word that the mask selects, and one that fails it. -/
theorem witness_WordSelectsByMaskAndMatch :
    (Opcode.STEP, 0x60000000#32, 0xFFFFFFFF#32) ∈ opcodeTable ∧ ([] : List Byte).length = lenAsked 0x60000000#32 ∧
      ([] : List Byte).length = lenAsked 0x60000001#32 ∧ opNumber 0x60000001#32 = opNumber 0x60000000#32 ∧
      0x60000001#32 &&& 0xFFFFFFFF#32 ≠ 0x60000000#32 := by decide +kernel

/-- The ends of both fields. -/
theorem witness_CoordinatesAreSignExtended :
    decode 0x14020000#32 [] = .ok (.get .cur (-256) (-128)) ∧ decode 0x2BFDFC00#32 [] = .ok (.set .nxt 255 127) := by decide

/-- The ends of both fields, and one beyond each. -/
theorem witness_AssemblerKeepsCoordinates :
    assemble (.get .cur (-256) 127) = some (.get .cur (-256) 127) ∧ assemble (.set .nxt 255 (-128)) = some (.set .nxt 255 (-128)) ∧
      assemble (.get .cur (-257) 0) = none ∧ assemble (.get .cur 256 0) = none ∧ assemble (.set .cur 0 (-129)) = none ∧
      assemble (.set .cur 0 128) = none := by decide

/-- The last cell and the last bit, the first of each, and the two cells where a page begins and ends. -/
theorem witness_LayoutIsBijection :
    (127 < 128 ∧ 63 < 64 ∧ byteIndex 127 63 = 1023 ∧ bitIndex 63 = 7) ∧ (byteIndex 0 0 = 0 ∧ bitIndex 0 = 0) ∧
      (byteIndex 0 7 = 0 ∧ bitIndex 7 = 7) ∧ (byteIndex 0 8 = 128 ∧ bitIndex 8 = 0) := by decide

theorem witness_StepRunsDecodedOperation :
    (pending blank (record 0x38000000#32 [] .ok)).inputs = .command (record 0x38000000#32 [] .ok) :: [] ∧
      decode (record 0x38000000#32 [] .ok).word (record 0x38000000#32 [] .ok).payload = .ok (.clear .nxt) := by decide

/-- A payload that is there, one that is short and one that is long. -/
theorem witness_ShortPayloadWaits :
    (record 0x90000001#32 [0xAE#8] .ok).payload.length = lenAsked 0x90000001#32 ∧
      (record 0x90000001#32 [] .ok).payload.length ≠ lenAsked 0x90000001#32 ∧
      (record 0x60000000#32 [0xAE#8] .ok).payload.length ≠ lenAsked 0x60000000#32 := by decide +kernel

/-- Each of the two stops happens. -/
theorem witness_StopsOnlyToWait :
    State.reset.inputs = [] ∧ step (pending blank (record 0x90000001#32 [] .ok)) = .fault .waitingForPayload :=
  ⟨rfl, rfl⟩

/-- Each kind of code: OK with data, FAULT, REJECTED, a transfer result. -/
theorem witness_OneResponsePerCommand :
    (landing (step (pending stopped (record 0xB0000000#32 [] .ok)))).map State.responses = some [⟨.ok, .word 0x00000140#32⟩] ∧
      (landing (step (pending blank (record 0x70000000#32 [] .ok)))).map State.responses = some [⟨.fault, .none⟩] ∧
      (landing (step (pending stopped (record 0x60000000#32 [] .ok)))).map State.responses = some [⟨.rejected, .none⟩] ∧
      (landing (step (pending blank (record 0xA0000000#32 [] .transportTimeout)))).map State.responses =
        some [⟨.transportTimeout, .none⟩] := by
  decide +kernel

/-- RST in the fault state. -/
theorem witness_ResetValues :
    ({ uncleared with inputs := [.rst] } : State).inputs = .rst :: [] ∧ readyAfter false uncleared.wire = false := ⟨rfl, rfl⟩

theorem witness_RstKeepsRecords : ({ uncleared with inputs := [.rst] } : State).inputs = .rst :: [] := rfl

/-- RST before the first event, among the bytes, and after the last event. -/
theorem witness_RstAbortsOperation :
    ({ blank with inputs := [.rstDuring (record 0xA0000000#32 [] .ok) 0 0] } : State).inputs =
        .rstDuring (record 0xA0000000#32 [] .ok) 0 0 :: [] ∧
      ({ blank with inputs := [.rstDuring (record 0xA0000000#32 [] .ok) 5 2] } : State).inputs =
        .rstDuring (record 0xA0000000#32 [] .ok) 5 2 :: [] ∧
      ({ blank with inputs := [.rstDuring (record 0xA0000000#32 [] .ok) 16 13] } : State).inputs =
        .rstDuring (record 0xA0000000#32 [] .ok) 16 13 :: [] ∧
      readyAfter false blank.wire = false := by decide

/-- SENDINIT emits a frame of 13 bytes, of which none, some and all are parts. -/
theorem witness_RstAbortsOperation_frame :
    (landing (step (pending blank (record 0xA0000000#32 [] .ok)))).map State.outLog =
        some (blank.outLog ++ [⟨.cmd, cmdFrame INIT_SEQ, .ok⟩]) ∧
      0 ≤ (cmdFrame INIT_SEQ).length ∧ 7 ≤ (cmdFrame INIT_SEQ).length ∧ 13 ≤ (cmdFrame INIT_SEQ).length := by decide +kernel

/-- CLEAR emits no frame, SENDC without a payload faults, and SENDC short of its payload waits. -/
theorem witness_RstAbortsOperation_no_frame :
    (landing (step (pending blank (record 0x38000000#32 [] .ok)))).map State.outLog = some blank.outLog ∧
      (landing (step (pending blank (record 0x90000000#32 [] .ok)))).map (fun t => (t.faulted, t.outLog)) =
        some (true, blank.outLog) ∧
      step (pending blank (record 0x90000001#32 [] .ok)) = .fault .waitingForPayload :=
  ⟨by decide +kernel, by decide +kernel, rfl⟩

/-- A locked state of the block: both buffers are empty, and so is the generation after. -/
theorem witness_lockOk : locked.lockOk := fun _ => ⟨rfl, rfl, life_nil.symm⟩

theorem witness_StepKeepsLock :
    (pending locked (record 0xB0000000#32 [] .ok)).lockOk ∧ (pending locked (record 0xB0000000#32 [] .ok)).stepped = true ∧
      (landing (step (pending locked (record 0xB0000000#32 [] .ok)))).isSome = true :=
  ⟨fun _ => ⟨rfl, rfl, life_nil.symm⟩, rfl, by decide +kernel⟩

theorem witness_StepKeepsInvariants :
    (pending locked (record 0xA0000000#32 [] .ok)).Inv ∧
      (landing (step (pending locked (record 0xA0000000#32 [] .ok)))).isSome = true :=
  ⟨⟨⟨rfl, rfl⟩, ⟨fun _ => ⟨rfl, rfl⟩, fun h => absurd h (by decide)⟩, fun _ => ⟨rfl, rfl, life_nil.symm⟩,
      fun _ => rfl, fun _ h => absurd h List.not_mem_nil, rfl, ⟨rfl, rfl⟩⟩, by decide +kernel⟩

theorem witness_FaultEntryIsPrecise :
    (pending locked (record 0x70000000#32 [] .ok)).faulted = false ∧
      (landing (step (pending locked (record 0x70000000#32 [] .ok)))).map State.faulted = some true := by decide +kernel

/-- Each of the five illegal codes. -/
theorem witness_IllegalOpcodeFaults :
    [0x00000000#32, 0xC0000000#32, 0xD0000000#32, 0xE0000000#32, 0xF0000000#32].all
      (fun w => decide (opNumber w ∈ [0x0, 0xC, 0xD, 0xE, 0xF] ∧ (record w [] .ok).payload = [] ∧
        (pending blank (record w [] .ok)).faulted = false)) = true := by decide +kernel

/-- A word with a reserved bit of each legal code, LDSEED and SENDC with LEN = 0. -/
theorem witness_ReservedBitsFault :
    [0x10000200#32, 0x20000001#32, 0x34000000#32, 0x44000000#32, 0x50000800#32, 0x60000001#32, 0x78000000#32, 0x88000000#32,
      0x98000000#32, 0xA0000001#32, 0xB4000000#32].all
      (fun w => decide ((record w [] .ok).payload.length = lenAsked w) &&
        reservedTable.any fun row => decide (opNumber w = row.1 ∧ w &&& row.2 ≠ 0#32)) = true ∧
      (pending blank (record 0x10000200#32 [] .ok)).faulted = false := by decide +kernel

theorem witness_FaultIsLowestCause :
    locked.faulted = false ∧ causeHolds (.set .cur 200 0) locked .coordRange ∧
      causeHolds (.set .cur 200 0) locked .lockedWrite :=
  ⟨rfl, .inr ⟨.cur, 200, 0, rfl, by decide⟩, rfl, .inl ⟨.cur, 200, 0, rfl⟩⟩

/-- The three cases of the fault state. -/
theorem witness_FaultStateIsSticky :
    (pending stopped (record 0xB0000000#32 [] .ok)).faulted = true ∧
      (record 0xB0000000#32 [] .ok).payload.length = lenAsked 0xB0000000#32 ∧
      (record 0xB8000000#32 [] .ok).payload.length = lenAsked 0xB8000000#32 ∧
      (record 0x90000001#32 [0xAE#8] .ok).payload.length = lenAsked 0x90000001#32 := by decide +kernel

theorem witness_FirstFaultIsKept :
    stopped.faulted = true ∧
      landing (Host.Core.run Sys2Proof.core 1 (pending stopped (record 0xC0000000#32 [] .ok))) =
        some { stopped with responses := [⟨.rejected, .none⟩] } ∧
      ∀ i ∈ (pending stopped (record 0xC0000000#32 [] .ok)).inputs, ∃ c, i = .command c :=
  ⟨rfl, by decide +kernel, fun _ h => ⟨_, List.mem_singleton.mp h⟩⟩

/-- Each of the three flags changes: SWAP inverts CUR_PHYS and clears the others, SENDF sets SENT. -/
theorem witness_SequencingFlagsChange :
    (landing (exec .swap { locked with sent := true })).map (fun t => (t.curPhys, t.stepped, t.sent)) =
        some (.b1, false, false) ∧
      (landing (exec .sendf locked)).map State.sent = some true ∧ (exec .step blank = .next (effect .step blank) ∧
        (effect .step blank).stepped = true) :=
  ⟨by decide +kernel, by decide +kernel, exec_effect rfl (by decide +kernel), rfl⟩

theorem witness_DefFlagsOnlyRise :
    (landing (exec (.clear .nxt) State.reset)).map (fun t => (t.defd .b0, t.defd .b1)) = some (false, true) ∧
      (landing (exec (.ldseed seamSeed) State.reset)).map (fun t => (t.defd .b0, t.defd .b1)) = some (true, false) := by
  decide +kernel

theorem witness_OutLogOnlyGrows :
    (landing (exec (.clear .cur) blank)).map State.outLog = some [] ∧
      (landing (exec (.sendc [0xAE#8]) blank)).map State.outLog = some [⟨.cmd, [0x78#8, 0x00#8, 0xAE#8], .ok⟩] := by
  decide +kernel

theorem witness_FrameHeaders :
    (landing (exec (.sendc [0x40#8]) blank)).map State.outLog =
      some (blank.outLog ++ [⟨.cmd, [0x78#8, 0x00#8, 0x40#8], .ok⟩]) := by decide +kernel

/-- The last cell dies by CLEAR. -/
theorem witness_NoSingleBitCleared :
    pixels.fb0.wf = true ∧ pixels.fb1.wf = true ∧ cell (pixels.fb .b0) 127 63 = true ∧
      (landing (exec (.clear .cur) pixels)).map (fun t => cell (t.fb .b0) 127 63) = some false := by decide +kernel

theorem witness_LockedBuffersUnchanged :
    locked.lockOk ∧ locked.stepped = true ∧ locked.faulted = false ∧
      (landing (exec (.set .nxt 0 0) locked)).map State.faulted = some true :=
  ⟨witness_lockOk, rfl, rfl, by decide +kernel⟩

/-- The corners of the accepted range. -/
theorem witness_GetReadsWrappedCell :
    pixels.faulted = false ∧ pixels.defd (pixels.phys .cur) = true ∧
      (-1 ≤ (-1 : BitVec 9).toInt ∧ (-1 : BitVec 9).toInt ≤ 128 ∧ -1 ≤ (-1 : BitVec 8).toInt ∧ (-1 : BitVec 8).toInt ≤ 64) ∧
      (-1 ≤ (128 : BitVec 9).toInt ∧ (128 : BitVec 9).toInt ≤ 128 ∧ -1 ≤ (64 : BitVec 8).toInt ∧ (64 : BitVec 8).toInt ≤ 64) := by
  decide

/-- The ends of both axes. -/
theorem witness_GetIsToroidal :
    pixels.defd (pixels.phys .cur) = true ∧ (0 ≤ (0 : BitVec 8).toInt ∧ (0 : BitVec 8).toInt < 64) ∧
      (0 ≤ (63 : BitVec 8).toInt ∧ (63 : BitVec 8).toInt < 64) ∧ (0 ≤ (0 : BitVec 9).toInt ∧ (0 : BitVec 9).toInt < 128) ∧
      (0 ≤ (127 : BitVec 9).toInt ∧ (127 : BitVec 9).toInt < 128) := by decide

/-- The first and the last cell. -/
theorem witness_SetWritesOneBit :
    blank.faulted = false ∧ blank.stepped = false ∧ blank.fb0.wf = true ∧ blank.fb1.wf = true ∧
      (0 ≤ (0 : BitVec 9).toInt ∧ (0 : BitVec 9).toInt < 128 ∧ 0 ≤ (0 : BitVec 8).toInt ∧ (0 : BitVec 8).toInt < 64) ∧
      (0 ≤ (127 : BitVec 9).toInt ∧ (127 : BitVec 9).toInt < 128 ∧ 0 ≤ (63 : BitVec 8).toInt ∧ (63 : BitVec 8).toInt < 64) := by
  decide

theorem witness_SetThenGetReadsOne :
    127 < 128 ∧ 63 < 64 ∧ blank.faulted = false ∧ blank.stepped = false ∧ blank.defd (blank.phys .nxt) = true ∧
      blank.fb0.wf = true ∧ blank.fb1.wf = true := by decide

/-- With an undefined buffer. -/
theorem witness_ClearZeroesBuffer : pixels.faulted = false ∧ pixels.stepped = false ∧ pixels.defd (pixels.phys .nxt) = false := by
  decide

theorem witness_RdbytesReturnsBuffer :
    stopped.faulted = true ∧ pixels.faulted = false ∧ pixels.defd (pixels.phys .cur) = true := by decide

theorem witness_LdseedLoadsCurrent :
    State.reset.faulted = false ∧ State.reset.stepped = false ∧ seamSeed.length = 1024 := by decide +kernel

theorem witness_SeedReadsBack :
    pixels.faulted = false ∧ pixels.stepped = false ∧ (List.replicate 1024 0xFF#8).length = 1024 := by decide +kernel

/-- A state in which the next generation may be computed, with live cells. -/
def prepared : State := { pixels with def1 := true }

theorem witness_StepComputesNextGeneration :
    prepared.faulted = false ∧ prepared.defd (prepared.phys .cur) = true ∧ prepared.defd (prepared.phys .nxt) = true ∧
      ∀ a, a < 1024 → (prepared.fb (prepared.phys .nxt)).read a = 0x00#8 := ⟨rfl, rfl, rfl, fun _ _ => rfl⟩

/-- Two states that agree on the bytes of current alone. -/
theorem witness_StepDependsOnCurrentOnly :
    exec .step prepared = .next (effect .step prepared) ∧
      exec .step { prepared with fb0 := [], fb1 := prepared.fb0, curPhys := .b1, sent := true } =
        .next (effect .step { prepared with fb0 := [], fb1 := prepared.fb0, curPhys := .b1, sent := true }) ∧
      (effect .step prepared).faulted = false ∧
      (effect .step { prepared with fb0 := [], fb1 := prepared.fb0, curPhys := .b1, sent := true }).faulted = false ∧
      ∀ a, a < 1024 → (prepared.fb (prepared.phys .cur)).read a =
        (State.fb { prepared with fb0 := [], fb1 := prepared.fb0, curPhys := .b1, sent := true } .b1).read a :=
  ⟨exec_effect rfl (by decide +kernel), exec_effect rfl (by decide +kernel), rfl, rfl, fun _ _ => rfl⟩

/-- A buffer with cells set one by one (R102). -/
def drawn (m : Memory) (cells : List (Nat × Nat)) : Memory := cells.foldl (fun m c => setCell m c.1 c.2) m

theorem cell_drawn {x y : Nat} (hx : x < W) : ∀ {cells : List (Nat × Nat)} {m : Memory}, m.wf = true →
    (∀ c ∈ cells, c.1 < W ∧ c.2 < H) →
      cell (drawn m cells) x y = (cell m x y || cells.any fun c => c.1 == x && c.2 == y)
  | [], _, _, _ => by simp [drawn]
  | c :: cells, m, hm, hc => by
    have hin := hc c (List.mem_cons_self ..)
    have ih := cell_drawn (y := y) hx (cells := cells) (wf_setCell hm hin.1 hin.2) fun d hd => hc d (List.mem_cons_of_mem _ hd)
    rw [drawn, List.foldl_cons]
    rw [drawn] at ih
    rw [ih, cell_setCell hm hin.1 hx, List.any_cons, Bool.eq_iff_iff]
    simp only [Bool.or_eq_true, Bool.and_eq_true, decide_eq_true_eq, beq_iff_eq]
    constructor <;> intro h <;> aesop

/-- A buffer drawn from the remainders of a pattern holds exactly that pattern on the torus. -/
theorem holdsExactly_of_drawn {m : Memory} {cells : List (Int × Int)}
    (h : drawn [] (cells.map fun c => ((c.1 % 128).toNat, (c.2 % 64).toNat)) = m) : holdsExactly m cells := by
  intro x y
  rw [torusCell_eq, ← h, cell_drawn (by simp only [W]; omega) rfl (fun c hc => by
    simp only [List.mem_map] at hc
    obtain ⟨d, -, rfl⟩ := hc
    simp only [W, H]; omega)]
  have : cell [] (x % 128).toNat (y % 64).toNat = false := by simp [cell]
  simp only [this, Bool.false_or, List.any_map, List.any_eq_true, Function.comp_apply, Bool.and_eq_true, beq_iff_eq]
  constructor <;> rintro ⟨c, hc, h1, h2⟩ <;> exact ⟨c, hc, by omega, by omega⟩

/-- One cell, and that cell moved across the corner. -/
theorem witness_LifeCommutesWithMoves :
    ∀ x y, torusCell [(1023, 0x80#8)] x y = torusCell [(0, 0x01#8)] (x - 127) (y - 63) := by
  have h1 : holdsExactly [(1023, 0x80#8)] [(127, 63)] := holdsExactly_of_drawn (by decide +kernel)
  have h2 : holdsExactly [(0, 0x01#8)] [(0, 0)] := holdsExactly_of_drawn (by decide +kernel)
  intro x y
  rw [Bool.eq_iff_iff, h1, h2]
  simp

/-- With a send, and without one where the configuration asks for none. -/
theorem witness_SwapExchangesRoles :
    (({ locked with sent := true } : State).faulted = false ∧ ({ locked with sent := true } : State).stepped = true ∧
        ({ locked with sent := true } : State).sent = true) ∧
      ({ locked with cfg := ⟨false⟩ } : State).stepped = true ∧ ({ locked with cfg := ⟨false⟩ } : State).cfg.swapNeedsSend = false := by
  decide

theorem witness_StepAfterSwapNeedsClear :
    ({ locked with sent := true } : State).faulted = false ∧ ({ locked with sent := true } : State).lockOk ∧
      exec .swap { locked with sent := true } = .next (effect .swap { locked with sent := true }) ∧
      (effect .swap { locked with sent := true }).faulted = false :=
  ⟨rfl, fun _ => ⟨rfl, rfl, life_nil.symm⟩, exec_effect rfl (by decide +kernel), rfl⟩

theorem witness_SwapClearIsCopyClear :
    ({ locked with sent := true } : State).faulted = false ∧ ({ locked with sent := true } : State).stepped = true ∧
      ({ locked with sent := true } : State).sent = true ∧ locked.defd (locked.phys .cur) = true ∧
      locked.defd (locked.phys .nxt) = true := by decide

theorem witness_RolesHidePhysicalBuffers :
    Instr.get .cur 5 13 ≠ .rdstat .status ∧ (landing (exec (.get .cur 5 13) pixels)).isSome = true := by decide +kernel

/-- A ready state whose current buffer holds G0 (V-L8, generation 0). -/
def gliderState : State := { blank with fb0 := [(0, 0x04#8), (1, 0x05#8), (2, 0x06#8)] }

/-- A ready state whose current buffer holds the block across the corner (V-L4). -/
def cornerBlock : State := { blank with fb0 := [(0, 0x01#8), (127, 0x01#8), (896, 0x80#8), (1023, 0x80#8)] }

theorem witness_GliderMovesByOne :
    gliderState.ready ∧ holdsExactly (gliderState.fb (gliderState.phys .cur)) (moved 0 0 glider) ∧
      gliderState.xfer.result = .ok ∧ ({ gliderState with cfg := ⟨false⟩ } : State).cfg.swapNeedsSend = false :=
  ⟨⟨rfl, rfl, rfl, rfl, fun _ _ => rfl⟩, holdsExactly_of_drawn (by decide +kernel), rfl, rfl⟩

/-- The block stands across the corner of the torus. -/
theorem witness_BlockIsStill :
    cornerBlock.ready ∧ holdsExactly (cornerBlock.fb (cornerBlock.phys .cur)) (moved 127 63 block) ∧
      cornerBlock.xfer.result = .ok ∧ ({ cornerBlock with cfg := ⟨false⟩ } : State).cfg.swapNeedsSend = false :=
  ⟨⟨rfl, rfl, rfl, rfl, fun _ _ => rfl⟩, holdsExactly_of_drawn (by decide +kernel), rfl, rfl⟩

theorem witness_GenerationSequence :
    seamSeed.length = 1024 ∧ State.reset.faulted = false ∧ State.reset.stepped = false ∧ State.reset.sent = false ∧
      State.reset.xfer.result = .ok := by decide +kernel

theorem witness_SendfEmitsCurrent : pixels.faulted = false ∧ pixels.defd (pixels.phys .cur) = true := by decide

/-- The shortest and the longest command frame. -/
theorem witness_SendcEmitsPayload :
    State.reset.faulted = false ∧ 1 ≤ [0xAE#8].length ∧ (List.replicate 2047 0xAE#8).length ≤ 2047 := by decide +kernel

theorem witness_SendinitEmitsInitFrame : State.reset.faulted = false := rfl

theorem witness_SameFrameAroundStep :
    prepared.faulted = false ∧ exec .sendf prepared = .next (effect .sendf prepared) ∧
      (effect .sendf prepared).faulted = false ∧ exec .step prepared = .next (effect .step prepared) ∧
      (effect .step prepared).faulted = false ∧
      exec .sendf (effect .step prepared) = .next (effect .sendf (effect .step prepared)) :=
  ⟨rfl, exec_effect rfl (by decide +kernel), rfl, exec_effect rfl (by decide +kernel), rfl, exec_effect rfl rfl⟩

/-- Two states that differ in the bytes of an undefined buffer, and the two ways a step of them can end. -/
theorem witness_UndefinedContentsUnobservable :
    State.sameDefined (pending pixels (record 0x38000000#32 [] .ok))
        { pending pixels (record 0x38000000#32 [] .ok) with fb1 := [(7, 0x01#8)] } ∧
      (landing (step (pending pixels (record 0x38000000#32 [] .ok)))).isSome = true ∧
      State.sameDefined pixels { pixels with fb1 := [(7, 0x01#8)] } ∧ step pixels = .fault .waitingForCommand :=
  ⟨⟨⟨_, _, rfl⟩, fun _ => rfl, fun h => absurd h (by decide)⟩, by decide +kernel,
    ⟨⟨_, _, rfl⟩, fun _ => rfl, fun h => absurd h (by decide)⟩, rfl⟩

end Sys2Proof.Tests
end

section
/-! SUPPORT. What a step can do to an invariant, said once (`KeptBySteps`), and the invariants of the block one by one. -/

namespace Sys2Proof.Machine

/-! ### Orderly events on the OUT port -/

/-- Events that keep the order of the OUT port where READY is de-asserted before them, and leave it de-asserted (R32, R176).
`State.wireOk` says it of all events so far. -/
def orderly (es : List WireEvent) : Prop := wireOrder false es = true ∧ readyAfter false es = false

theorem State.wireOk_iff (s : State) : s.wireOk ↔ orderly s.wire := Iff.rfl

theorem orderly_nil : orderly [] := ⟨rfl, rfl⟩

theorem orderly_append {a b : List WireEvent} (ha : orderly a) (hb : orderly b) : orderly (a ++ b) := by
  obtain ⟨ha, hra⟩ := ha
  obtain ⟨hb, hrb⟩ := hb
  exact ⟨by rw [wireOrder_append, ha, hra, hb]; rfl, by rw [readyAfter_append, hra, hrb]⟩

theorem orderly_emission (bytes : List Byte) : orderly (emission bytes) :=
  ⟨wireOrder_emission bytes, readyAfter_emission false bytes⟩

theorem orderly_cutEmission (k : Nat) (bytes : List Byte) : orderly (cutEmission k bytes) :=
  ⟨wireOrder_cutEmission k bytes, readyAfter_cutEmission k bytes⟩

theorem orderly_flatMap_cutEmission (k : Nat) (frames : List FrameRecord) :
    orderly (frames.flatMap fun f => cutEmission k f.bytes) := by
  induction frames with
  | nil => exact orderly_nil
  | cons f frames ih => exact orderly_append (orderly_cutEmission k f.bytes) ih

/-! ### The state after RST -/

/-- The state RST leaves, between operations or during one: the reset state with the events of the interrupted frame, if
any, on the OUT port (R250, R251). -/
def State.restarted (s : State) (rest : List Input) (received : List (List Byte)) (events : List WireEvent) : State :=
  { s.afterRst with inputs := rest, received := received, wire := s.wire ++ events }

theorem serve_rst (s : State) (rest : List Input) :
    serve .rst rest s = .next (s.restarted rest s.received []) := by
  simp [serve, State.restarted]

/-- RST during a command cuts the frames the command would have added to OUT_LOG (R251). -/
theorem abort_eq_restarted (c : Command) (k arrived : Nat) (s : State) :
    abort c k arrived s =
      s.restarted s.inputs (s.received ++ (framesAdded s (issue c s)).flatMap fun f => cutReceived k arrived f.bytes)
        ((framesAdded s (issue c s)).flatMap fun f => cutEmission k f.bytes) := rfl

/-- After RST every field is at its reset value where READY is de-asserted (R38). -/
theorem State.atReset_restarted {s : State} {events : List WireEvent}
    (h : readyAfter false (s.wire ++ events) = false) (rest : List Input) (received : List (List Byte)) :
    (s.restarted rest received events).atReset := by
  have hzero : (s.restarted rest received events).nxtZero = false := rfl
  have hstatus : (s.restarted rest received events).status = 0#32 := by
    rw [State.status, hzero]
    simp [State.restarted, Xfer.code, FaultCode.code, Buf.bit]
  exact ⟨rfl, rfl, rfl, rfl, rfl, rfl, rfl, rfl, rfl, rfl, h, hstatus⟩

/-! ### Properties every step keeps -/

/-- A property of states that each part of a step keeps: taking the command, responding, entering the fault state, the
change an operation makes where no fault applies to it, and RST. -/
structure KeptBySteps (P : State → Prop) : Prop where
  takeCommand : ∀ {s} c rest, P s → P (s.takeCommand c rest)
  respond : ∀ {s} code data, P s → P (s.respond code data)
  enterFault : ∀ {s} code w, code ≠ .none → P s → P (s.enterFault code w)
  change : ∀ {s} i, faultOf i s = none → P s → P (change i s)
  restarted : ∀ {s} rest received events, orderly events → P s → P (s.restarted rest received events)

namespace KeptBySteps

variable {P : State → Prop} {s t : State}

theorem exec (hP : KeptBySteps P) {i : Instr} (hs : P s) (h : exec i s = .next t) : P t := by
  rcases exec_cases h with ⟨-, -, rfl⟩ | ⟨-, code, hcode, rfl⟩ | ⟨-, hnone, rfl⟩
  · exact hP.respond _ _ hs
  · exact hP.respond _ _ (hP.enterFault _ _ (faultOf_ne_none hcode) hs)
  · exact hP.respond _ _ (hP.change i hnone hs)

theorem issue (hP : KeptBySteps P) {c : Command} (hs : P s) (h : issue c s = .next t) : P t := by
  rcases issue_cases h with ⟨i, -, hi⟩ | ⟨code, hcode, ⟨-, rfl⟩ | ⟨-, rfl⟩⟩
  · exact hP.exec hs hi
  · exact hP.respond _ _ hs
  · have hne : code ≠ .none := by rcases hcode with rfl | rfl <;> decide
    exact hP.respond _ _ (hP.enterFault _ _ hne hs)

theorem serve (hP : KeptBySteps P) {i : Input} {rest : List Input} (hs : P s) (h : serve i rest s = .next t) : P t := by
  cases i with
  | command c => exact hP.issue (hP.takeCommand c rest hs) h
  | rst =>
    rw [serve_rst] at h
    cases h
    exact hP.restarted _ _ _ orderly_nil hs
  | rstDuring c k arrived =>
    cases h
    rw [abort_eq_restarted]
    exact hP.restarted _ _ _ (orderly_flatMap_cutEmission k _) (hP.takeCommand c rest hs)

/-- What each part of a step keeps, every step keeps. -/
theorem step (hP : KeptBySteps P) (hs : P s) (h : step s = .next t) : P t := by
  obtain ⟨i, rest, -, hserve⟩ := step_cases h
  exact hP.serve hs hserve

end KeptBySteps

/-! ### The framebuffers' canonical form -/

theorem State.fbsWf.fb {s : State} (h : s.fbsWf) (p : Buf) : (s.fb p).wf = true := by
  cases p
  · exact h.1
  · exact h.2

theorem State.fbsWf.setFb {s : State} (h : s.fbsWf) (p : Buf) {m : Memory} (hm : m.wf = true) : (s.setFb p m).fbsWf := by
  cases p
  · exact ⟨hm, h.2⟩
  · exact ⟨h.1, hm⟩

theorem State.fbsWf.setDef {s : State} (h : s.fbsWf) (p : Buf) : (s.setDef p).fbsWf := by
  cases p <;> exact h

/-- A SET that no fault stops names a cell of the grid (R102, R211). -/
theorem inSetRange_of_faultOf {r : Role} {x : BitVec 9} {y : BitVec 8} {s : State} (h : faultOf (.set r x y) s = none) :
    (coordX x).toNat < W ∧ (coordY y).toNat < H := by
  have hin : inSetRange (coordX x) (coordY y) = true := by
    by_contra hout
    rw [Bool.not_eq_true] at hout
    simp [faultOf, hout] at h
  have := (inSetRange_iff _ _).mp hin
  simp only [W, H]
  omega

/-- An LDSEED that no fault stops has FB_BYTES bytes (R106, R211). -/
theorem length_of_faultOf_ldseed {p : List Byte} {s : State} (h : faultOf (.ldseed p) s = none) : p.length = FB_BYTES := by
  by_contra hne
  simp [faultOf, hne] at h

theorem fbsWf_change {i : Instr} {s : State} (hi : faultOf i s = none) (h : s.fbsWf) : (change i s).fbsWf := by
  cases i with
  | set r x y =>
    obtain ⟨hx, hy⟩ := inSetRange_of_faultOf hi
    exact h.setFb _ (wf_setCell (h.fb _) hx hy)
  | clear r => exact (h.setFb _ Memory.wf_nil).setDef _
  | ldseed p => exact (h.setFb _ (Memory.wf_ofBytes (length_of_faultOf_ldseed hi).le)).setDef _
  | step => exact h.setFb _ (wf_life _)
  | get | rdbytes | swap | sendf | sendc | sendinit | rdstat => exact h

theorem fbsWf_kept : KeptBySteps State.fbsWf where
  takeCommand _ _ h := h
  respond _ _ h := h
  enterFault _ _ _ h := h
  change _ hi h := fbsWf_change hi h
  restarted _ _ _ _ _ := ⟨rfl, rfl⟩

/-! ### The fault fields -/

theorem faultFieldsOk_kept : KeptBySteps State.faultFieldsOk where
  takeCommand _ _ h := h
  respond _ _ h := h
  enterFault _ _ hne _ := ⟨nofun, fun _ => hne⟩
  change {s} i _ h := by
    obtain ⟨hfaulted, hcode, hword⟩ := change_fault i s
    rwa [State.faultFieldsOk, hfaulted, hcode, hword]
  restarted _ _ _ _ _ := ⟨fun _ => ⟨rfl, rfl⟩, nofun⟩

/-! ### The lock -/

/-- R41 says nothing of a state that is not locked. -/
theorem State.lockOk_of_not_stepped {s : State} (h : s.stepped = false) : s.lockOk := fun hs => by
  rw [h] at hs
  cases hs

/-- The operations that write a framebuffer for the host: each faults while STEPPED = 1 (R211). -/
def writesBuffer : Instr → Bool
  | .set _ _ _ | .clear _ | .ldseed _ => true
  | _ => false

theorem not_stepped_of_writes {i : Instr} {s : State} (hw : writesBuffer i = true) (hi : faultOf i s = none) :
    s.stepped = false := by
  cases i with
  | set | clear | ldseed =>
    simp only [faultOf] at hi
    split_ifs at hi
    exact Bool.eq_false_of_not_eq_true ‹_›
  | get | rdbytes | step | swap | sendf | sendc | sendinit | rdstat => cases hw

/-- A STEP that no fault stops has both buffers defined (R140, R211). -/
theorem defd_of_faultOf_step {s : State} (h : faultOf .step s = none) :
    s.defd s.curPhys = true ∧ s.defd s.curPhys.other = true := by
  simp only [faultOf] at h
  split_ifs at h with hcur hnxt
  rw [Bool.not_eq_false] at hcur hnxt
  exact ⟨hcur, (s.nxtZero_iff.mp hnxt).1⟩

/-- A STEP that no fault stops leaves Life of current in next (R140). -/
theorem lockOk_change_step {s : State} (h : faultOf .step s = none) : (change .step s).lockOk := by
  obtain ⟨hcur, hnxt⟩ := defd_of_faultOf_step h
  intro _
  simp [change, hcur, hnxt]

theorem lockOk_change {i : Instr} {s : State} (hi : faultOf i s = none) (h : s.lockOk) : (change i s).lockOk := by
  cases i with
  | set | clear | ldseed =>
    apply State.lockOk_of_not_stepped
    simp [change, not_stepped_of_writes rfl hi]
  | step => exact lockOk_change_step hi
  | swap => exact State.lockOk_of_not_stepped rfl
  | get | rdbytes | sendf | sendc | sendinit | rdstat => exact h

theorem lockOk_kept : KeptBySteps State.lockOk where
  takeCommand _ _ h := h
  respond _ _ h := h
  enterFault _ _ _ h := h
  change _ hi h := lockOk_change hi h
  restarted _ _ _ _ _ := State.lockOk_of_not_stepped rfl

/-! ### SENT -/

/-- A SENDF that no fault stops has current defined (R171, R211). -/
theorem defd_of_faultOf_sendf {s : State} (h : faultOf .sendf s = none) : s.defd s.curPhys = true := by
  by_contra hcur
  simp [faultOf, hcur] at h

theorem State.sentOk.setFb {s : State} (h : s.sentOk) (p : Buf) (m : Memory) : (s.setFb p m).sentOk := by
  simpa [State.sentOk] using h

theorem State.sentOk.setDef {s : State} (h : s.sentOk) (p : Buf) : (s.setDef p).sentOk := by
  intro hs
  rw [State.setDef_sent] at hs
  rw [State.phys_setDef, State.defd_setDef, h hs, Bool.or_true]

theorem sentOk_change {i : Instr} {s : State} (hi : faultOf i s = none) (h : s.sentOk) : (change i s).sentOk := by
  cases i with
  | set => exact h.setFb _ _
  | clear | ldseed => exact (h.setFb _ _).setDef _
  | step => exact h.setFb _ _
  | swap => exact nofun
  | sendf => exact fun _ => defd_of_faultOf_sendf hi
  | get | rdbytes | sendc | sendinit | rdstat => exact h

theorem sentOk_kept : KeptBySteps State.sentOk where
  takeCommand _ _ h := h
  respond _ _ h := h
  enterFault _ _ _ h := h
  change _ hi h := sentOk_change hi h
  restarted _ _ _ _ _ := nofun

/-! ### The frames of OUT_LOG, LAST_XFER and the OUT port -/

theorem wellFormed_dataFrame (m : Memory) (x : Xfer) : FrameRecord.wellFormed ⟨.data, dataFrame m, x⟩ :=
  ⟨by simp [dataFrame, FB_BYTES], rfl⟩

theorem wellFormed_cmdFrame {c : List Byte} (hc : c.length ≠ 0) (x : Xfer) :
    FrameRecord.wellFormed ⟨.cmd, cmdFrame c, x⟩ :=
  ⟨by simp only [cmdFrame, List.length_cons]; omega, rfl⟩

/-- A SENDC that no fault stops has a payload (R180, R211). -/
theorem length_of_faultOf_sendc {p : List Byte} {s : State} (h : faultOf (.sendc p) s = none) : p.length ≠ 0 := by
  intro hp
  simp [faultOf, hp] at h

/-- An operation that no fault stops leaves OUT_LOG, LAST_XFER and the OUT port as they are, or emits one well-formed frame
(R170, R174). -/
theorem change_emits_wellFormed {i : Instr} {s : State} (hi : faultOf i s = none) :
    ((change i s).outLog = s.outLog ∧ (change i s).lastXfer = s.lastXfer ∧ (change i s).wire = s.wire) ∨
      ∃ f : FrameRecord, f.wellFormed ∧ (change i s).outLog = s.outLog ++ [f] ∧ (change i s).lastXfer = f.result ∧
        (change i s).wire = s.wire ++ emission f.bytes := by
  rcases change_emits i s with ⟨hlog, hlast, hwire, -⟩ | ⟨kind, bytes, hframe, hlog, hlast, hwire, -⟩
  · exact .inl ⟨hlog, hlast, hwire⟩
  · refine .inr ⟨⟨kind, bytes, s.xfer.result⟩, ?_, hlog, hlast, hwire⟩
    rcases hframe with ⟨rfl, -, rfl⟩ | ⟨rfl, ⟨-, rfl⟩ | ⟨p, rfl, rfl⟩⟩
    · exact wellFormed_dataFrame _ _
    · exact wellFormed_cmdFrame (by decide) _
    · exact wellFormed_cmdFrame (length_of_faultOf_sendc hi) _

theorem outLogOk_kept : KeptBySteps State.outLogOk where
  takeCommand _ _ h := h
  respond _ _ h := h
  enterFault _ _ _ h := h
  change {s} i hi h := by
    rcases change_emits_wellFormed hi with ⟨hlog, -⟩ | ⟨f, hf, hlog, -⟩
    · rwa [State.outLogOk, hlog]
    · rw [State.outLogOk, hlog, List.forall_mem_append]
      exact ⟨h, List.forall_mem_singleton.mpr hf⟩
  restarted _ _ _ _ _ := nofun

theorem lastXferOk_kept : KeptBySteps State.lastXferOk where
  takeCommand _ _ h := h
  respond _ _ h := h
  enterFault _ _ _ h := h
  change {s} i hi h := by
    rcases change_emits_wellFormed hi with ⟨hlog, hlast, -⟩ | ⟨f, -, hlog, hlast, -⟩
    · rwa [State.lastXferOk, hlog, hlast]
    · rw [State.lastXferOk, hlog, hlast, List.getLast?_concat]
  restarted _ _ _ _ _ := rfl

theorem wireOk_kept : KeptBySteps State.wireOk where
  takeCommand _ _ h := h
  respond _ _ h := h
  enterFault _ _ _ h := h
  change {s} i hi h := by
    rw [State.wireOk_iff] at h ⊢
    rcases change_emits_wellFormed hi with ⟨-, -, hwire⟩ | ⟨f, -, -, -, hwire⟩
    · rwa [hwire]
    · rw [hwire]
      exact orderly_append h (orderly_emission f.bytes)
  restarted _ _ _ hevents h := orderly_append h hevents

/-! ### The obligations -/

/-- Settles O16: each invariant is kept by each part of a step, and needs none of the others. -/
theorem stepKeepsInvariants : Obligations.StepKeepsInvariants := by
  intro s t ⟨hfbs, hfault, hlock, hsent, hlog, hlast, hwire⟩ h
  exact ⟨fbsWf_kept.step hfbs h, faultFieldsOk_kept.step hfault h, lockOk_kept.step hlock h, sentOk_kept.step hsent h,
    outLogOk_kept.step hlog h, lastXferOk_kept.step hlast h, wireOk_kept.step hwire h⟩

/-- Settles O17: the host's writes fault while STEPPED = 1, SWAP and RST clear it, and STEP sets it with next just
computed. -/
theorem stepKeepsLock : Obligations.StepKeepsLock := fun _ _ hlock h => lockOk_kept.step hlock h

/-- Settles O12: power-on is the state RST leaves where nothing has passed the OUT port. -/
theorem resetValues : Obligations.ResetValues := by
  refine ⟨State.atReset_restarted (s := State.reset) (events := []) rfl [] [], fun s rest hinputs hready => ?_⟩
  refine ⟨s.restarted rest s.received [], ?_, State.atReset_restarted (by simpa using hready) _ _⟩
  rw [step, hinputs]
  exact serve_rst s rest

end Sys2Proof.Machine
end

section
/-! The packed layout of a buffer (R50, R52). -/

namespace Sys2Proof.Machine

/-- Settles O7: the cell of byte `i` and bit `b` is column `i mod W` of row `8 * (i / W) + b`, and the layout sends no other
cell there. -/
theorem layoutIsBijection : Obligations.LayoutIsBijection := by
  refine ⟨fun x y hx hy => ⟨byteIndex_lt hx hy, bitIndex_lt y⟩, fun i b hi hb => ?_⟩
  obtain ⟨hx, hy, hbyte, hbit⟩ := layout_surjective hi hb
  refine ⟨i % W, 8 * (i / W) + b, ⟨hx, hy, hbyte, hbit⟩, fun x' y' hx' _ hbyte' hbit' => ?_⟩
  exact layout_injective hx' hx (hbyte'.trans hbyte.symm) (hbit'.trans hbit.symm)

end Sys2Proof.Machine
end

section
/-! What a command record answers: the worked words, the words that name no operation, and the table of response codes
(R74, R77, R78, R84). -/

namespace Sys2Proof

/-- A word with its payload, a legal operation code and zero reserved bits decodes to its operation (R75). -/
theorem decode_legal {w : Word} {p : List Byte} {o : Opcode} (hp : p.length = payloadLen w)
    (ho : opcodeOf (opField w) = some o) (hr : w &&& o.format.reservedMask = 0#32) : decode w p = .ok (operation o w p) := by
  rw [decode_of_payload hp, ho]
  exact if_neg (not_not.mpr hr)

/-- A word with its payload and a code that R77 calls illegal. -/
theorem decode_illegalOpcode {w : Word} {p : List Byte} (hp : p.length = payloadLen w)
    (ho : opcodeOf (opField w) = none) : decode w p = .error .illegalOpcode := by
  rw [decode_of_payload hp, ho]

/-- A word with its payload, a legal operation code and a 1 in a must-be-zero bit (R78). -/
theorem decode_reservedBits {w : Word} {p : List Byte} {o : Opcode} (hp : p.length = payloadLen w)
    (ho : opcodeOf (opField w) = some o) (hr : w &&& o.format.reservedMask ≠ 0#32) :
    decode w p = .error .reservedBits := by
  rw [decode_of_payload hp, ho]
  exact if_pos hr

/-- Only a format L word has a payload (R73). -/
theorem payloadLen_of_opcodeOf_eq_none {w : Word} (ho : opcodeOf (opField w) = none) : payloadLen w = 0 := by
  simp [payloadLen, ho]

/-- Settles O4: each word has a legal operation code and zero reserved bits, and its fields are the operands. -/
theorem workedWordsDecode : Obligations.WorkedWordsDecode :=
  ⟨decode_legal (o := .GET) rfl rfl rfl, decode_legal (o := .GET) rfl rfl rfl, decode_legal (o := .SET) rfl rfl rfl,
    decode_legal (o := .CLEAR) rfl rfl rfl, decode_legal (o := .CLEAR) rfl rfl rfl, decode_legal (o := .RDBYTES) rfl rfl rfl,
    fun _ hp => decode_legal (o := .LDSEED) hp rfl rfl, decode_legal (o := .STEP) rfl rfl rfl,
    decode_legal (o := .SWAP) rfl rfl rfl, decode_legal (o := .SENDF) rfl rfl rfl,
    fun _ hp => decode_legal (o := .SENDC) hp rfl rfl, decode_legal (o := .SENDINIT) rfl rfl rfl,
    decode_legal (o := .RDSTAT) rfl rfl rfl, decode_legal (o := .RDSTAT) rfl rfl rfl⟩

end Sys2Proof

namespace Sys2Proof.Machine

/-! ### Words that name no operation -/

/-- The illegal operation codes as numbers (R77). -/
theorem opcodeOf_opField_eq_none {w : Word} (h : opNumber w ∈ [0x0, 0xC, 0xD, 0xE, 0xF]) :
    opcodeOf (opField w) = none := by
  have codes : ∀ op : BitVec 4, op.toNat ∈ [0x0, 0xC, 0xD, 0xE, 0xF] → opcodeOf op = none := by decide
  exact codes _ (opNumber_eq w ▸ h)

/-- The masks of R78 are those of the formats that R76 gives the operation codes. -/
theorem reservedMask_of_mem_reservedTable {w : Word} {row : Nat × Word} (hrow : row ∈ reservedTable)
    (hop : opNumber w = row.1) : ∃ o, opcodeOf (opField w) = some o ∧ o.format.reservedMask = row.2 := by
  have masks : ∀ row ∈ reservedTable, ∀ op : BitVec 4, op.toNat = row.1 →
      (opcodeOf op).map (·.format.reservedMask) = some row.2 := by decide
  exact Option.map_eq_some_iff.mp (masks row hrow _ (opNumber_eq w ▸ hop))

/-- Outside the fault state a word that names no operation changes nothing but the fault fields (R212, R213). -/
theorem badWord_running {s : State} (h : s.faulted = false) (code : FaultCode) (w : Word) :
    badWord code w s = .next (faultState s code w) :=
  accept_running h _

/-- Settles O19: no payload is asked for, so the record decodes to ILLEGAL_OPCODE. -/
theorem illegalOpcodeFaults : Obligations.IllegalOpcodeFaults := by
  intro s c rest hinputs hrun hpayload hop
  refine ⟨?_, rfl⟩
  have hnone := opcodeOf_opField_eq_none hop
  have hlen : c.payload.length = payloadLen c.word := by simp [hpayload, payloadLen_of_opcodeOf_eq_none hnone]
  rw [step_command hinputs, issue, decode_illegalOpcode hlen hnone]
  exact badWord_running (s := s.takeCommand c rest) hrun _ _

/-- Settles O20: the row of the table is the mask of the format the decoder checks. -/
theorem reservedBitsFault : Obligations.ReservedBitsFault := by
  intro s c rest hinputs hrun hpayload row hrow hop hbits
  refine ⟨?_, rfl⟩
  obtain ⟨o, ho, hmask⟩ := reservedMask_of_mem_reservedTable hrow hop
  rw [step_command hinputs, issue, decode_reservedBits (hpayload.trans (lenAsked_eq _)) ho (hmask ▸ hbits)]
  exact badWord_running (s := s.takeCommand c rest) hrun _ _

/-! ### The table of response codes -/

/-- An operation that emits no frame responds OK, a frame operation the transfer result's code (R74, R175). -/
theorem answerCode_eq (i : Instr) (s : State) :
    answerCode i s = if emitsFrame i then s.xfer.result.response else .ok := by
  cases i <;> rfl

/-- A frame operation gives no data (R74). -/
theorem answerData_of_emitsFrame {i : Instr} (h : emitsFrame i = true) (s : State) : answerData i s = .none := by
  cases i with
  | sendf | sendc | sendinit => rfl
  | get | set | clear | rdbytes | ldseed | step | swap | rdstat => cases h

/-- The data of a response has its operation's type (R74). -/
theorem dataFits_answerData (i : Instr) (s : State) : dataFits i (answerData i s) := by
  cases i with
  | get | rdstat => exact ⟨_, rfl⟩
  | rdbytes r => exact ⟨_, rfl, Memory.length_toBytes _⟩
  | set | clear | ldseed | step | swap | sendf | sendc | sendinit => rfl

@[simp] theorem effect_faulted (i : Instr) (s : State) : (effect i s).faulted = s.faulted := by
  obtain ⟨hfaulted, -⟩ := change_fault i s
  exact hfaulted

@[simp] theorem effect_responses (i : Instr) (s : State) :
    (effect i s).responses = s.responses ++ [⟨answerCode i s, answerData i s⟩] := by
  obtain ⟨-, -, -, hresponses⟩ := change_ports i s
  rw [effect, State.respond_responses, hresponses]

/-- `RespCode.byte` against the numbers of R175. -/
theorem Xfer.byte_response (x : Xfer) : x.response.byte = xferByte x := by cases x <;> rfl

/-- The row of R74's table for the response `r` to command `c`, taken in state `s` and leaving state `t`. -/
def Response.fitsTable (r : Response) (c : Command) (s t : State) : Prop :=
  match r.code with
  | .ok => ∃ i, decode c.word c.payload = .ok i ∧ dataFits i r.data ∧ t.faulted = s.faulted ∧
      (emitsFrame i = true → s.xfer.result = .ok)
  | .fault => r.data = .none ∧ s.faulted = false ∧ t.faulted = true
  | .rejected => r.data = .none ∧ s.faulted = true ∧ t = s.respond .rejected .none
  | code => r.data = .none ∧ ∃ i, decode c.word c.payload = .ok i ∧ emitsFrame i = true ∧ code = s.xfer.result.response

/-- The response of an operation that completes is OK, or the result of the transfer that failed. -/
theorem fitsTable_effect {c : Command} {i : Instr} (hd : decode c.word c.payload = .ok i) (s : State) :
    Response.fitsTable ⟨answerCode i s, answerData i s⟩ c s (effect i s) := by
  have hfits := dataFits_answerData i s
  rw [answerCode_eq]
  cases hframe : emitsFrame i with
  | false => exact ⟨i, hd, hfits, effect_faulted i s, by simp [hframe]⟩
  | true =>
    have hdata := answerData_of_emitsFrame hframe s
    cases hx : s.xfer.result with
    | ok => exact ⟨i, hd, hfits, effect_faulted i s, fun _ => hx⟩
    | deviceNotFound | transportTimeout | transportIoError => exact ⟨hdata, i, hd, hframe, by rw [hx]; rfl⟩

/-- A command record that is answered gets one response, by the table: a rejected or faulting one whether or not its word
names an operation (R74, R212). -/
theorem issue_fitsTable {c : Command} {s t : State} (h : issue c s = .next t) :
    ∃ r : Response, t.responses = s.responses ++ [r] ∧ r.fitsTable c s t := by
  have rejected (hs : s.faulted = true) :
      ∃ r : Response, (s.respond .rejected .none).responses = s.responses ++ [r] ∧
        r.fitsTable c s (s.respond .rejected .none) := ⟨_, rfl, rfl, hs, rfl⟩
  have faulted (hs : s.faulted = false) (code : FaultCode) (w : Word) :
      ∃ r : Response, ((s.enterFault code w).respond .fault .none).responses = s.responses ++ [r] ∧
        r.fitsTable c s ((s.enterFault code w).respond .fault .none) := ⟨_, rfl, rfl, hs, rfl⟩
  rcases issue_cases h with ⟨i, hd, hi⟩ | ⟨code, -, ⟨hs, rfl⟩ | ⟨hs, rfl⟩⟩
  · rcases exec_cases hi with ⟨hs, -, rfl⟩ | ⟨hs, code, -, rfl⟩ | ⟨-, -, rfl⟩
    · exact rejected hs
    · exact faulted hs code _
    · exact ⟨_, effect_responses i s, fitsTable_effect hd s⟩
  · exact rejected hs
  · exact faulted hs code _

/-- Settles O11: the row of the table that the response's code selects. -/
theorem oneResponsePerCommand : Obligations.OneResponsePerCommand := by
  intro s t c rest hinputs hstep
  rw [step_command hinputs] at hstep
  obtain ⟨⟨code, data⟩, hresp, hrow⟩ := issue_fitsTable hstep
  refine ⟨⟨code, data⟩, hresp, ?_⟩
  cases code with
  | ok =>
    obtain ⟨i, hd, hfits, hfaulted, hxfer⟩ := hrow
    simpa [RespCode.byte] using ⟨i, hd, hfits, hfaulted, hxfer⟩
  | fault =>
    obtain ⟨rfl, hrun, hfaulted⟩ := hrow
    simpa [RespCode.byte] using ⟨hrun, hfaulted⟩
  | rejected =>
    obtain ⟨rfl, hs, rfl⟩ := hrow
    simpa [RespCode.byte] using ⟨hs, rfl⟩
  | deviceNotFound | transportTimeout | transportIoError =>
    obtain ⟨rfl, i, hd, hframe, hcode⟩ := hrow
    have hbyte := (congrArg RespCode.byte hcode).trans (Xfer.byte_response _)
    simpa [RespCode.byte] using ⟨i, hd, hframe, hbyte⟩

end Sys2Proof.Machine
end

section
/-! The framebuffer operations GET and SET on the cells of a buffer (R100, R102), and what leaves a live cell live (R103). -/

namespace Sys2Proof.Machine

/-! ### When GET and SET raise no fault -/

theorem faultOf_get_eq_none {r : Role} {x : BitVec 9} {y : BitVec 8} {s : State}
    (hin : inGetRange (coordX x) (coordY y) = true) (hd : s.defd (s.phys r) = true) : faultOf (.get r x y) s = none := by
  simp [faultOf, hin, hd]

theorem faultOf_set_eq_none {r : Role} {x : BitVec 9} {y : BitVec 8} {s : State}
    (hin : inSetRange (coordX x) (coordY y) = true) (hs : s.stepped = false) : faultOf (.set r x y) s = none := by
  simp [faultOf, hin, hs]

/-! ### GET on the torus -/

/-- In its range GET answers the cell of the torus at its coordinates (R100, R101). -/
theorem answerData_get {r : Role} {x : BitVec 9} {y : BitVec 8} (hin : inGetRange (coordX x) (coordY y) = true) (s : State) :
    answerData (.get r x y) s = .bit (BitVec.ofBool (torusCell (s.fb (s.phys r)) (coordX x) (coordY y))) := by
  obtain ⟨hx0, hx1, hy0, hy1⟩ := (inGetRange_iff _ _).mp hin
  rw [answerData, wrappedCell_eq_torusCell _ ⟨hx0, hx1⟩ ⟨hy0, hy1⟩]

/-- On a defined buffer GET depends on the remainders of its coordinates alone. -/
theorem exec_get_congr {r : Role} {x x' : BitVec 9} {y y' : BitVec 8} {s : State} (hd : s.defd (s.phys r) = true)
    (hin : inGetRange (coordX x) (coordY y) = true) (hin' : inGetRange (coordX x') (coordY y') = true)
    (hx : coordX x % 128 = coordX x' % 128) (hy : coordY y % 64 = coordY y' % 64) :
    exec (.get r x y) s = exec (.get r x' y') s := by
  have heffect : effect (.get r x y) s = effect (.get r x' y') s := by
    rw [effect, effect, answerData_get hin, answerData_get hin', torusCell_congr _ hx hy]
    rfl
  rw [exec_eq, exec_eq, faultOf_get_eq_none hin hd, faultOf_get_eq_none hin' hd, heffect]
  rfl

/-- Settles O31: the two coordinates of each pair have the same remainder and both are in GET's range. -/
theorem getIsToroidal : Obligations.GetIsToroidal := by
  intro r s hd
  refine ⟨fun y hy0 hy1 => ?_, fun x hx0 hx1 => ?_⟩
  · have hin (x : BitVec 9) (hx : -1 ≤ x.toInt ∧ x.toInt ≤ 128) : inGetRange (coordX x) (coordY y) = true :=
      (inGetRange_iff _ _).mpr ⟨hx.1, hx.2, by rw [coordY]; omega, by rw [coordY]; omega⟩
    exact ⟨exec_get_congr hd (hin _ (by decide)) (hin _ (by decide)) (by decide) rfl,
      exec_get_congr hd (hin _ (by decide)) (hin _ (by decide)) (by decide) rfl⟩
  · have hin (y : BitVec 8) (hy : -1 ≤ y.toInt ∧ y.toInt ≤ 64) : inGetRange (coordX x) (coordY y) = true :=
      (inGetRange_iff _ _).mpr ⟨by rw [coordX]; omega, by rw [coordX]; omega, hy.1, hy.2⟩
    exact ⟨exec_get_congr hd (hin _ (by decide)) (hin _ (by decide)) rfl (by decide),
      exec_get_congr hd (hin _ (by decide)) (hin _ (by decide)) rfl (by decide)⟩

/-! ### A live cell stays live -/

theorem cell_eq_false_of_read_eq_zero {m : Memory} (h : ∀ a, a < FB_BYTES → m.read a = 0#8) {x y : Nat} (hx : x < W)
    (hy : y < H) : cell m x y = false := by
  simp [cell, h _ (byteIndex_lt hx hy)]

/-- A STEP that no fault stops finds no live cell in next (R140, R211). -/
theorem cell_nxt_of_faultOf_step {s : State} (h : faultOf .step s = none) {x y : Nat} (hx : x < W) (hy : y < H) :
    cell (s.fb s.curPhys.other) x y = false := by
  simp only [faultOf] at h
  split_ifs at h with _ hzero
  obtain ⟨-, hread⟩ := s.nxtZero_iff.mp (Bool.eq_true_of_not_eq_false hzero)
  exact cell_eq_false_of_read_eq_zero hread hx hy

/-- SET only adds a live cell, STEP writes a buffer in which none lives, and the others but CLEAR and LDSEED write no
buffer (R103). -/
theorem cell_change_of_live {i : Instr} {s : State} (hi : faultOf i s = none) (hclear : ∀ r, i ≠ .clear r)
    (hseed : ∀ bs, i ≠ .ldseed bs) (hwf : s.fbsWf) {p : Buf} {x y : Nat} (hx : x < W) (hy : y < H)
    (hlive : cell (s.fb p) x y = true) : cell ((change i s).fb p) x y = true := by
  cases i with
  | set r a b =>
    obtain ⟨ha, -⟩ := inSetRange_of_faultOf hi
    rw [change, State.fb_setFb]
    split_ifs with hp
    · rw [cell_setCell (hwf.fb _) ha hx, ← hp, hlive, Bool.or_true]
    · exact hlive
  | step =>
    rw [change, State.fb_markStepped, State.fb_setFb, if_neg]
    · exact hlive
    · rintro rfl
      rw [cell_nxt_of_faultOf_step hi hx hy] at hlive
      cases hlive
  | clear r => exact absurd rfl (hclear r)
  | ldseed bs => exact absurd rfl (hseed bs)
  | get | rdbytes | swap | sendf | sendc | sendinit | rdstat => simpa [change] using hlive

/-- Settles O28: a rejected or faulting operation writes no buffer, and one that completes keeps the cell live unless it is
CLEAR or LDSEED. -/
theorem noSingleBitCleared : Obligations.NoSingleBitCleared := by
  intro i s t p x y hwf h hx hy hlive hdead
  by_contra hother
  rw [not_or, not_exists, not_exists] at hother
  obtain ⟨hclear, hseed⟩ := hother
  have hkept : cell (t.fb p) x y = true := by
    rcases exec_cases h with ⟨-, -, rfl⟩ | ⟨-, c, -, rfl⟩ | ⟨-, hi, rfl⟩
    · simpa using hlive
    · simpa using hlive
    · simpa [effect] using cell_change_of_live hi hclear hseed hwf hx hy hlive
  rw [hkept] at hdead
  cases hdead

/-! ### Setting a cell and reading it back -/

theorem coordX_ofNat {x : Nat} (hx : x < W) : coordX (BitVec.ofNat 9 x) = x := by
  simp only [W] at hx
  rw [coordX, BitVec.toInt_eq_toNat_of_lt (by rw [BitVec.toNat_ofNat]; omega), BitVec.toNat_ofNat]
  omega

theorem coordY_ofNat {y : Nat} (hy : y < H) : coordY (BitVec.ofNat 8 y) = y := by
  simp only [H] at hy
  rw [coordY, BitVec.toInt_eq_toNat_of_lt (by rw [BitVec.toNat_ofNat]; omega), BitVec.toNat_ofNat]
  omega

/-- A state in which a cell of a role's buffer can be set and read back (R100, R102, R211). -/
structure State.Settable (s : State) (r : Role) : Prop where
  running : s.faulted = false
  unlocked : s.stepped = false
  defined : s.defd (s.phys r) = true
  fbsWf : s.fbsWf

section
variable {r : Role} {x y : Nat} {s : State}

/-- SET of a cell of the grid answers OK, makes the cell live and leaves a state in which it can be set again (R102). -/
theorem exec_set_cell (hx : x < W) (hy : y < H) (hs : s.Settable r) :
    ∃ t, exec (.set r (BitVec.ofNat 9 x) (BitVec.ofNat 8 y)) s = .next t ∧ t.Settable r ∧
      cell (t.fb (t.phys r)) x y = true ∧ t.responses = s.responses ++ [⟨.ok, .none⟩] := by
  have hin : inSetRange (coordX (BitVec.ofNat 9 x)) (coordY (BitVec.ofNat 8 y)) = true := by
    rw [coordX_ofNat hx, coordY_ofNat hy, inSetRange_iff]
    simp only [W, H] at hx hy
    omega
  have hnone := faultOf_set_eq_none (r := r) hin hs.unlocked
  refine ⟨_, exec_effect hs.running hnone, ⟨?_, ?_, ?_, fbsWf_change hnone hs.fbsWf⟩, ?_, effect_responses _ s⟩
  · rw [effect_faulted, hs.running]
  · simp [effect, change, hs.unlocked]
  · simp [effect, change, hs.defined]
  · simp [effect, change, coordX_ofNat hx, coordY_ofNat hy, cell_setCell (hs.fbsWf.fb _) hx hx]

/-- One or more SETs of a cell answer OK each time and leave it live (R107). -/
theorem execAll_set_cell (hx : x < W) (hy : y < H) (n : Nat) (hs : s.Settable r) :
    ∃ t, execAll (List.replicate (n + 1) (.set r (BitVec.ofNat 9 x) (BitVec.ofNat 8 y))) s = .next t ∧ t.Settable r ∧
      cell (t.fb (t.phys r)) x y = true ∧ t.responses = s.responses ++ List.replicate (n + 1) ⟨.ok, .none⟩ := by
  induction n generalizing s with
  | zero =>
    obtain ⟨t, hexec, ht, hcell, hresp⟩ := exec_set_cell hx hy hs
    exact ⟨t, by simp [execAll, hexec], ht, hcell, hresp⟩
  | succ n ih =>
    obtain ⟨u, hexec, hu, -, hresp⟩ := exec_set_cell hx hy hs
    obtain ⟨t, hall, ht, hcell, hresps⟩ := ih hu
    refine ⟨t, ?_, ht, hcell, ?_⟩
    · rw [List.replicate_succ, execAll, hexec]
      exact hall
    · rw [hresps, hresp, List.append_assoc, List.singleton_append, ← List.replicate_succ]

/-- GET of a cell of the grid answers OK with the cell (R100). -/
theorem exec_get_cell (hx : x < W) (hy : y < H) (hs : s.Settable r) :
    exec (.get r (BitVec.ofNat 9 x) (BitVec.ofNat 8 y)) s =
      .next (s.respond .ok (.bit (BitVec.ofBool (cell (s.fb (s.phys r)) x y)))) := by
  have hin : inGetRange (coordX (BitVec.ofNat 9 x)) (coordY (BitVec.ofNat 8 y)) = true := by
    rw [coordX_ofNat hx, coordY_ofNat hy, inGetRange_iff]
    simp only [W, H] at hx hy
    omega
  rw [exec_effect hs.running (faultOf_get_eq_none hin hs.defined), effect, answerData_get hin, coordX_ofNat hx,
    coordY_ofNat hy, torusCell_of_range _ hx hy]
  rfl

end

/-- Settles O33: the SETs leave the cell live, and GET answers it. -/
theorem setThenGetReadsOne : Obligations.SetThenGetReadsOne := by
  intro r x y n s hx hy hrun hunlocked hdef hwf
  obtain ⟨u, hall, hu, hlive, hresp⟩ := execAll_set_cell hx hy n (s := s) (r := r) ⟨hrun, hunlocked, hdef, hwf⟩
  refine ⟨u.respond .ok (.bit 1#1), ?_, by rw [State.respond_responses, hresp]⟩
  rw [execAll_append hall, execAll, exec_get_cell hx hy hu, hlive]
  rfl

end Sys2Proof.Machine
end

section
/-! The Life engine: what STEP leaves (R140, R145), whole generations by GEN and GENQ (R83), and patterns on the torus
(R155, R156). -/

namespace Sys2Proof.Machine

/-! ### The generation STEP leaves in next -/

/-- An operation that starts and ends outside the fault state has met no fault. -/
theorem completed_of_exec {i : Instr} {s t : State} (h : exec i s = .next t) (hs : s.faulted = false)
    (ht : t.faulted = false) : faultOf i s = none ∧ t = effect i s := by
  rcases exec_cases h with ⟨hf, -, -⟩ | ⟨-, c, -, rfl⟩ | ⟨-, hnone, rfl⟩
  · rw [hs] at hf
    cases hf
  · cases ht
  · exact ⟨hnone, rfl⟩

/-- After a STEP without a fault next holds the generation after current (R140). -/
@[simp] theorem fb_nxt_effect_step (s : State) :
    (effect .step s).fb ((effect .step s).phys .nxt) = life (s.fb (s.phys .cur)) := by
  simp [effect, change]

/-- Settles O39: STEP leaves Life of current in next, and Life depends on the bytes of its buffer alone. -/
theorem stepDependsOnCurrentOnly : Obligations.StepDependsOnCurrentOnly := by
  intro s s' t t' h h' hs hs' ht ht' hbytes
  obtain ⟨-, rfl⟩ := completed_of_exec h hs ht
  obtain ⟨-, rfl⟩ := completed_of_exec h' hs' ht'
  rw [fb_nxt_effect_step, fb_nxt_effect_step]
  exact life_congr hbytes

/-! ### From a ready state to SWAP and CLEAR -/

@[simp] theorem effect_cfg (i : Instr) (s : State) : (effect i s).cfg = s.cfg := (change_ports i s).1

@[simp] theorem effect_xfer (i : Instr) (s : State) : (effect i s).xfer = s.xfer := (change_ports i s).2.2.1

/-- An operation that completes, and the operations after it. -/
theorem execAll_cons_effect {i : Instr} {s : State} (hs : s.faulted = false) (hi : faultOf i s = none) (is : List Instr) :
    execAll (i :: is) s = execAll is (effect i s) := by
  rw [execAll, exec_effect hs hi]

theorem State.ready.running {s : State} (h : s.ready) : s.faulted = false := h.1

/-- No fault applies to STEP in a state ready for it (R140, R211). -/
theorem State.ready.faultOf_step {s : State} (h : s.ready) : faultOf .step s = none := by
  obtain ⟨-, -, hcur, hnxt, hzero⟩ := h
  have hclear : s.nxtZero = true := s.nxtZero_iff.mpr ⟨hnxt, hzero⟩
  rw [State.phys_cur] at hcur
  simp [faultOf, hcur, hclear]

/-- `SWAP` ; `CLEAR nxt` completes where SWAP is allowed: SWAP ends the lock under which CLEAR faults (R150, R211). -/
theorem execAll_swap_clear {s : State} (hs : s.faulted = false) (hallowed : s.swapAllowed = true) :
    execAll [.swap, .clear .nxt] s = .next (effect (.clear .nxt) (effect .swap s)) := by
  have hswap : faultOf .swap s = none := by simp [faultOf, hallowed]
  have hclear : faultOf (.clear .nxt) (effect .swap s) = none := rfl
  rw [execAll_cons_effect hs hswap, execAll_cons_effect (by simp [hs]) hclear, execAll]

/-- `u` holds in next the generation after current of `s`, both buffers are defined, and SWAP has yet to come (R41, R140). -/
structure NextComputed (s u : State) : Prop where
  running : u.faulted = false
  locked : u.stepped = true
  defined : ∀ p, u.defd p = true
  next : u.fb (u.phys .nxt) = life (s.fb (s.phys .cur))
  curPhys : u.curPhys = s.curPhys
  xfer : u.xfer = s.xfer
  cfg : u.cfg = s.cfg

/-- STEP computes next from a ready state (R140). -/
theorem State.ready.nextComputed {s : State} (h : s.ready) : NextComputed s (effect .step s) := by
  obtain ⟨hrun, -, hcur, hnxt, -⟩ := h
  refine ⟨by simp [hrun], by simp [effect, change], fun p => ?_, fb_nxt_effect_step s, by simp [effect, change],
    effect_xfer _ s, effect_cfg _ s⟩
  rcases Buf.eq_or_other s.curPhys p with rfl | rfl
  · simpa [effect, change] using hcur
  · simpa [effect, change] using hnxt

/-- SENDF may stand between STEP and SWAP: it leaves the buffers and the roles as they are (R152, R171). -/
theorem NextComputed.sendf {s u : State} (h : NextComputed s u) : NextComputed s (effect .sendf u) where
  running := by simp [h.running]
  locked := by simp [effect, change, h.locked]
  defined p := by simp [effect, change, h.defined p]
  next := by simpa [effect, change] using h.next
  curPhys := by simp [effect, change, h.curPhys]
  xfer := by simp [h.xfer]
  cfg := by simp [h.cfg]

theorem NextComputed.faultOf_sendf {s u : State} (h : NextComputed s u) : faultOf .sendf u = none := by
  simp [faultOf, h.defined]

/-! ### Any number of generations -/

/-- `n` generations by the operations `ops`, from `s` to `t`: every operation answers OK, current holds Life applied n times,
the roles have changed n mod 2 times and the next generation may follow (R254). -/
structure Generations (ops : List Instr) (n : Nat) (s t : State) : Prop where
  exec : execAll (List.replicate n ops).flatten s = .next t
  ready : t.ready
  current : t.fb (t.phys .cur) = lifeIter n (s.fb (s.phys .cur))
  curPhys : t.curPhys = if n % 2 = 0 then s.curPhys else s.curPhys.other
  responses : t.responses = s.responses ++ List.replicate (ops.length * n) ⟨.ok, .none⟩
  xfer : t.xfer = s.xfer
  cfg : t.cfg = s.cfg

/-- No generation at all. -/
theorem Generations.refl (ops : List Instr) {s : State} (h : s.ready) : Generations ops 0 s s where
  exec := rfl
  ready := h
  current := rfl
  curPhys := rfl
  responses := by simp
  xfer := rfl
  cfg := rfl

/-- One generation, and n more. -/
theorem Generations.cons {ops : List Instr} {n : Nat} {s u t : State} (h : Generations ops 1 s u)
    (h' : Generations ops n u t) : Generations ops (n + 1) s t where
  exec := by
    have hone : execAll ops s = .next u := by simpa using h.exec
    rw [List.replicate_succ, List.flatten_cons, execAll_append hone, h'.exec]
  ready := h'.ready
  current := by
    rw [h'.current, h.current]
    rfl
  curPhys := by
    rw [h'.curPhys, h.curPhys]
    rcases Nat.mod_two_eq_zero_or_one n with hn | hn
    · simp [hn, Nat.succ_mod_two_eq_one_iff.mpr hn]
    · simp [hn, Nat.succ_mod_two_eq_zero_iff.mpr hn]
  responses := by
    rw [h'.responses, h.responses, List.append_assoc, ← List.replicate_add]
    congr 2
    ring
  xfer := h'.xfer.trans h.xfer
  cfg := h'.cfg.trans h.cfg

/-- Where one generation can always follow, any number can: the transport's answer and the configuration stay. -/
theorem exists_generations {ops : List Instr} {x : Transfer} {c : Config}
    (hone : ∀ s : State, s.ready → s.xfer = x → s.cfg = c → ∃ t, Generations ops 1 s t) (n : Nat) :
    ∀ s : State, s.ready → s.xfer = x → s.cfg = c → ∃ t, Generations ops n s t := by
  induction n with
  | zero => exact fun s hs _ _ => ⟨s, .refl ops hs⟩
  | succ n ih =>
    intro s hs hx hc
    obtain ⟨u, hu⟩ := hone s hs hx hc
    obtain ⟨t, ht⟩ := ih u hu.ready (hu.xfer.trans hx) (hu.cfg.trans hc)
    exact ⟨t, hu.cons ht⟩

/-! ### One generation by GEN or GENQ -/

/-- Operations that compute next and may be followed by SWAP make one generation with `SWAP` ; `CLEAR nxt` (R83). -/
theorem NextComputed.generations {ops : List Instr} {s u : State} (h : NextComputed s u) (hops : execAll ops s = .next u)
    (hallowed : u.swapAllowed = true) (hresp : u.responses = s.responses ++ List.replicate ops.length ⟨.ok, .none⟩) :
    Generations (ops ++ [.swap, .clear .nxt]) 1 s (effect (.clear .nxt) (effect .swap u)) where
  exec := by
    rw [List.replicate_one, List.flatten_singleton, execAll_append hops, execAll_swap_clear h.running hallowed]
  ready := by
    refine ⟨by simp [h.running], by simp [effect, change], ?_, by simp [effect, change], by simp [effect, change]⟩
    simp [effect, change, State.defd_setDef, h.defined]
  current := by simpa [effect, change, lifeIter] using h.next
  curPhys := by simp [effect, change, h.curPhys]
  responses := by simp [hresp, answerCode, answerData, List.replicate_add]
  xfer := by simp [h.xfer]
  cfg := by simp [h.cfg]

/-- GEN from a ready state where the transport answers OK (R83). -/
theorem State.ready.generations_gen {s : State} (h : s.ready) (hx : s.xfer.result = .ok) :
    ∃ t, Generations gen 1 s t := by
  have hstep := h.nextComputed
  have hsent : (effect .sendf (effect .step s)).sent = true := by simp [effect, change, hx]
  refine ⟨_, hstep.sendf.generations (ops := [.step, .sendf]) ?_ ?_ ?_⟩
  · rw [execAll_cons_effect h.running h.faultOf_step, execAll_cons_effect hstep.running hstep.faultOf_sendf, execAll]
  · exact (State.swapAllowed_iff _).mpr ⟨hstep.sendf.locked, .inl hsent⟩
  · simp [answerCode, answerData, hx, Xfer.response]

/-- GENQ from a ready state where SWAP needs no send (R83). -/
theorem State.ready.generations_genq {s : State} (h : s.ready) (hcfg : s.cfg.swapNeedsSend = false) :
    ∃ t, Generations genq 1 s t := by
  have hstep := h.nextComputed
  refine ⟨_, hstep.generations (ops := [.step]) ?_ ?_ ?_⟩
  · rw [execAll_cons_effect h.running h.faultOf_step, execAll]
  · exact (State.swapAllowed_iff _).mpr ⟨hstep.locked, .inr (by rw [hstep.cfg, hcfg])⟩
  · simp [answerCode, answerData]

/-- Any number of GEN complete from a ready state where the transport answers OK (R254). -/
theorem exists_generations_gen {s : State} (h : s.ready) (hx : s.xfer.result = .ok) (n : Nat) :
    ∃ t, Generations gen n s t :=
  exists_generations (fun _ hu hxu _ => hu.generations_gen (by rw [hxu, hx])) n s h rfl rfl

/-- Any number of GENQ complete from a ready state where SWAP needs no send (R254). -/
theorem exists_generations_genq {s : State} (h : s.ready) (hcfg : s.cfg.swapNeedsSend = false) (n : Nat) :
    ∃ t, Generations genq n s t :=
  exists_generations (fun _ hu _ hcu => hu.generations_genq (by rw [hcu, hcfg])) n s h rfl rfl

/-! ### Patterns on the plane and on the torus -/

/-- The offsets of the nine cells of a 3×3 square from its middle. -/
theorem offsets_near : ∀ d ∈ [-1, 0, 1].product [-1, 0, 1], (-1 ≤ d.1 ∧ d.1 ≤ (1 : Int)) ∧ -1 ≤ d.2 ∧ d.2 ≤ (1 : Int) := by
  decide

/-- The cells of a pattern among the eight around (x, y) on the unbounded plane, counted as `torusCount` counts. -/
def planeCount (cells : List (Int × Int)) (x y : Int) : Nat :=
  (([-1, 0, 1].product [-1, 0, 1]).filter fun d : Int × Int =>
    decide (d ≠ (0, 0)) && decide ((x + d.1, y + d.2) ∈ cells)).length

/-- Whether (x, y) lives in the generation after a pattern on the unbounded plane (R142). -/
def livesNext (cells : List (Int × Int)) (x y : Int) : Bool :=
  decide (planeCount cells x y = 3 ∨ ((x, y) ∈ cells ∧ planeCount cells x y = 2))

/-- A pattern within the 4×4 square at the origin. -/
def smallPattern (cells : List (Int × Int)) : Bool :=
  cells.all fun c => decide ((0 ≤ c.1 ∧ c.1 ≤ 3) ∧ 0 ≤ c.2 ∧ c.2 ≤ 3)

/-- `next` is the generation after `cells` as far as the 6×6 square around the 4×4 square at the origin shows. -/
def succeeds (cells next : List (Int × Int)) : Bool :=
  (([-1, 0, 1, 2, 3, 4] : List Int).product [-1, 0, 1, 2, 3, 4]).all fun c =>
    livesNext cells c.1 c.2 == decide (c ∈ next)

theorem mem_of_small {cells : List (Int × Int)} (h : smallPattern cells = true) {x y : Int} (hc : (x, y) ∈ cells) :
    (0 ≤ x ∧ x ≤ 3) ∧ 0 ≤ y ∧ y ≤ 3 := by
  simpa using List.all_eq_true.mp h _ hc

/-- Two cells away from a small pattern nothing lives and nothing is counted. -/
theorem planeCount_eq_zero {cells : List (Int × Int)} (h : smallPattern cells = true) {x y : Int}
    (hfar : ¬((-1 ≤ x ∧ x ≤ 4) ∧ -1 ≤ y ∧ y ≤ 4)) : planeCount cells x y = 0 := by
  rw [planeCount, List.length_eq_zero_iff, List.filter_eq_nil_iff]
  intro d hd hlive
  obtain ⟨hdx, hdy⟩ := offsets_near d hd
  rw [Bool.and_eq_true, decide_eq_true_iff, decide_eq_true_iff] at hlive
  have := mem_of_small h hlive.2
  omega

/-- The generation after a small pattern, at every cell of the plane. -/
theorem livesNext_eq {cells next : List (Int × Int)} (h : smallPattern cells = true) (h' : smallPattern next = true)
    (hnext : succeeds cells next = true) (x y : Int) : livesNext cells x y = decide ((x, y) ∈ next) := by
  by_cases hnear : (-1 ≤ x ∧ x ≤ 4) ∧ -1 ≤ y ∧ y ≤ 4
  · have hmem : (x, y) ∈ ([-1, 0, 1, 2, 3, 4] : List Int).product [-1, 0, 1, 2, 3, 4] := by
      rw [List.pair_mem_product]
      simp only [List.mem_cons, List.not_mem_nil, or_false]
      omega
    simpa using List.all_eq_true.mp hnext _ hmem
  · have hdead : (x, y) ∉ next := fun hc => by
      have := mem_of_small h' hc
      omega
    simp [livesNext, planeCount_eq_zero h hnear, hdead]

/-- Near a small pattern, up to the seam, the cells of the pattern on the torus are those on the plane. -/
theorem exists_mem_moved_iff {cells : List (Int × Int)} (h : smallPattern cells = true) (a b : Int) {x y : Int}
    (hx : -2 ≤ x ∧ x ≤ 127) (hy : -2 ≤ y ∧ y ≤ 63) :
    (∃ c ∈ moved a b cells, (x + a - c.1) % 128 = 0 ∧ (y + b - c.2) % 64 = 0) ↔ (x, y) ∈ cells := by
  constructor
  · rintro ⟨c, hc, hcx, hcy⟩
    obtain ⟨⟨u, v⟩, huv, rfl⟩ := List.mem_map.mp hc
    have := mem_of_small h huv
    obtain rfl : x = u := by omega
    obtain rfl : y = v := by omega
    exact huv
  · exact fun hc => ⟨_, List.mem_map.mpr ⟨_, hc, rfl⟩, by simp, by simp⟩

/-- A buffer that holds a small pattern has its cells, up to the seam. -/
theorem torusCell_of_small {m : Memory} {cells : List (Int × Int)} {a b : Int} (h : smallPattern cells = true)
    (hm : holdsExactly m (moved a b cells)) {x y : Int} (hx : -2 ≤ x ∧ x ≤ 127) (hy : -2 ≤ y ∧ y ≤ 63) :
    torusCell m (x + a) (y + b) = decide ((x, y) ∈ cells) := by
  rw [Bool.eq_iff_iff, hm, exists_mem_moved_iff h a b hx hy, decide_eq_true_iff]

/-- So are the counts, one cell further from the seam. -/
theorem torusCount_of_small {m : Memory} {cells : List (Int × Int)} {a b : Int} (h : smallPattern cells = true)
    (hm : holdsExactly m (moved a b cells)) {x y : Int} (hx : -1 ≤ x ∧ x ≤ 126) (hy : -1 ≤ y ∧ y ≤ 62) :
    torusCount m (x + a) (y + b) = planeCount cells x y := by
  rw [torusCount, planeCount, List.filter_congr fun d hd => ?_]
  obtain ⟨hdx, hdy⟩ := offsets_near d hd
  rw [← torusCell_of_small h hm (x := x + d.1) (y := y + d.2) (by omega) (by omega), add_right_comm, add_right_comm y]

/-- Every cell of the torus is one of those near a pattern, up to the seam. -/
theorem exists_near (x a n : Int) (hn : 0 < n) : ∃ u, (-1 ≤ u ∧ u ≤ n - 2) ∧ x % n = (u + a) % n := by
  refine ⟨(x - a + 1) % n - 1, ?_, ?_⟩
  · have := Int.emod_nonneg (x - a + 1) hn.ne'
    have := Int.emod_lt_of_pos (x - a + 1) hn
    omega
  · rw [show (x - a + 1) % n - 1 + a = (x - a + 1) % n + (a - 1) by ring, Int.emod_add_emod]
    congr 1
    ring

/-- A buffer holds a small pattern where it has its cells on 128 columns and 64 rows from one before the pattern. -/
theorem holdsExactly_of_torusCell {m : Memory} {cells : List (Int × Int)} {a b : Int} (h : smallPattern cells = true)
    (hm : ∀ x y : Int, (-1 ≤ x ∧ x ≤ 126) → (-1 ≤ y ∧ y ≤ 62) → torusCell m (x + a) (y + b) = decide ((x, y) ∈ cells)) :
    holdsExactly m (moved a b cells) := by
  intro x y
  obtain ⟨u, hu, hxu⟩ := exists_near x a 128 (by decide)
  obtain ⟨v, hv, hyv⟩ := exists_near y b 64 (by decide)
  have hx (c : Int) : (x - c) % 128 = 0 ↔ (u + a - c) % 128 = 0 := by omega
  have hy (c : Int) : (y - c) % 64 = 0 ↔ (v + b - c) % 64 = 0 := by omega
  simp only [hx, hy]
  rw [torusCell_congr m hxu hyv, hm u v hu hv, exists_mem_moved_iff h a b (by omega) (by omega), decide_eq_true_iff]

/-- Life turns a small pattern, wherever on the torus it stands, into the one after it on the plane (R143). -/
theorem holdsExactly_life {m : Memory} {cells next : List (Int × Int)} {a b : Int} (h : smallPattern cells = true)
    (h' : smallPattern next = true) (hnext : succeeds cells next = true) (hm : holdsExactly m (moved a b cells)) :
    holdsExactly (life m) (moved a b next) := by
  refine holdsExactly_of_torusCell h' fun x y hx hy => ?_
  rw [torusCell_life, torusCount_of_small h hm hx hy, torusCell_of_small h hm (by omega) (by omega),
    ← livesNext_eq h h' hnext]
  simp only [decide_eq_true_iff, livesNext]

/-! ### The glider -/

/-- G0 after one generation. -/
def glider1 : List (Int × Int) := [(0, 1), (2, 1), (1, 2), (2, 2), (1, 3)]

/-- G0 after two generations. -/
def glider2 : List (Int × Int) := [(2, 1), (0, 2), (2, 2), (1, 3), (2, 3)]

/-- G0 after three generations. -/
def glider3 : List (Int × Int) := [(1, 1), (2, 2), (3, 2), (1, 3), (2, 3)]

theorem moved_moved (a b c d : Int) (cells : List (Int × Int)) :
    moved a b (moved c d cells) = moved (a + c) (b + d) cells := by
  rw [moved, moved, moved, List.map_map]
  refine List.map_congr_left fun p _ => ?_
  simp only [Function.comp_apply, Prod.mk.injEq]
  omega

/-- Life applied four times moves the glider by (1, 1) (R155). -/
theorem holdsExactly_lifeIter_glider {m : Memory} {a b : Int} (h : holdsExactly m (moved a b glider)) :
    holdsExactly (lifeIter 4 m) (moved (a + 1) (b + 1) glider) := by
  have h1 : holdsExactly (life m) (moved a b glider1) := holdsExactly_life rfl rfl (by decide) h
  have h2 : holdsExactly (life (life m)) (moved a b glider2) := holdsExactly_life rfl rfl (by decide) h1
  have h3 : holdsExactly (life (life (life m))) (moved a b glider3) := holdsExactly_life rfl rfl (by decide) h2
  have h4 : holdsExactly (life (life (life (life m)))) (moved a b (moved 1 1 glider)) :=
    holdsExactly_life rfl rfl (by decide) h3
  rw [← moved_moved]
  exact h4

/-- Four generations that complete move the glider by (1, 1) and bring the roles back (R155). -/
theorem Generations.glider {ops : List Instr} {s t : State} {a b : Int} (h : Generations ops 4 s t)
    (hs : holdsExactly (s.fb (s.phys .cur)) (moved a b glider)) :
    holdsExactly (t.fb (t.phys .cur)) (moved (a + 1) (b + 1) glider) ∧ t.ready ∧ t.curPhys = s.curPhys ∧
      t.responses = s.responses ++ List.replicate (ops.length * 4) ⟨.ok, .none⟩ := by
  refine ⟨?_, h.ready, h.curPhys, h.responses⟩
  rw [h.current]
  exact holdsExactly_lifeIter_glider hs

/-- Settles O46: four GEN, or four GENQ, are four generations, and Life applied four times moves the glider. -/
theorem gliderMovesByOne : Obligations.GliderMovesByOne := by
  intro s a b hready hs
  refine ⟨fun hx => ?_, fun hcfg => ?_⟩
  · obtain ⟨t, ht⟩ := exists_generations_gen hready hx 4
    exact ⟨t, ht.exec, ht.glider hs⟩
  · obtain ⟨t, ht⟩ := exists_generations_genq hready hcfg 4
    exact ⟨t, ht.exec, ht.glider hs⟩

/-! ### The 2×2 block -/

/-- Life applied any number of times leaves the block where it stands (R156). -/
theorem holdsExactly_lifeIter_block {a b : Int} (n : Nat) : ∀ {m : Memory}, holdsExactly m (moved a b block) →
    holdsExactly (lifeIter n m) (moved a b block) := by
  induction n with
  | zero => exact fun h => h
  | succ n ih => exact fun h => ih (holdsExactly_life rfl rfl (by decide) h)

/-- Generations that complete leave the block where it stands (R156). -/
theorem Generations.block {ops : List Instr} {n : Nat} {s t : State} {a b : Int} (h : Generations ops n s t)
    (hs : holdsExactly (s.fb (s.phys .cur)) (moved a b block)) :
    holdsExactly (t.fb (t.phys .cur)) (moved a b block) ∧ t.ready ∧
      t.curPhys = (if n % 2 = 0 then s.curPhys else s.curPhys.other) ∧
      t.responses = s.responses ++ List.replicate (ops.length * n) ⟨.ok, .none⟩ := by
  refine ⟨?_, h.ready, h.curPhys, h.responses⟩
  rw [h.current]
  exact holdsExactly_lifeIter_block n hs

/-- Settles O47: n GEN, or n GENQ, are n generations, and Life leaves the block where it stands. -/
theorem blockIsStill : Obligations.BlockIsStill := by
  intro s a b n hready hs
  refine ⟨fun hx => ?_, fun hcfg => ?_⟩
  · obtain ⟨t, ht⟩ := exists_generations_gen hready hx n
    exact ⟨t, ht.exec, ht.block hs⟩
  · obtain ⟨t, ht⟩ := exists_generations_genq hready hcfg n
    exact ⟨t, ht.exec, ht.block hs⟩

end Sys2Proof.Machine
end

section
/-! The frame encoder: the header of every frame (R174), and what SENDF and SENDC leave (R170, R171, R180). -/

namespace Sys2Proof.Machine

/-! ### The header of a frame -/

/-- A well-formed frame begins with the address byte and the marker of its kind (R174). -/
theorem FrameRecord.wellFormed.header {f : FrameRecord} (h : f.wellFormed) :
    f.bytes[0]? = some 0x78#8 ∧ f.bytes[1]? = some (if f.kind = .data then 0x40#8 else 0x00#8) := by
  obtain ⟨kind, bytes, result⟩ := f
  have htake : bytes.take 2 = [0x78#8, if kind = .data then 0x40#8 else 0x00#8] := by
    cases kind with
    | data | cmd => exact h.2
  rw [← List.getElem?_take_of_lt (show 0 < 2 by decide), ← List.getElem?_take_of_lt (show 1 < 2 by decide), htake]
  exact ⟨rfl, rfl⟩

/-- A frame that an operation adds to OUT_LOG is well-formed: a rejected or faulting operation adds none (R213, R214). -/
theorem wellFormed_of_exec {i : Instr} {s t : State} {f : FrameRecord} (h : exec i s = .next t)
    (hf : t.outLog = s.outLog ++ [f]) : f.wellFormed := by
  rcases exec_cases h with ⟨-, -, rfl⟩ | ⟨-, c, -, rfl⟩ | ⟨-, hi, rfl⟩
  · simp at hf
  · simp at hf
  · rw [effect, State.respond_outLog] at hf
    rcases change_emits_wellFormed hi with ⟨hlog, -⟩ | ⟨g, hg, hlog, -⟩
    · simp [hlog] at hf
    · obtain rfl : g = f := by simpa [hlog] using hf
      exact hg

/-- Settles O27: every frame an operation adds is well-formed, and so has the header of its kind. -/
theorem frameHeaders : Obligations.FrameHeaders :=
  fun _ _ _ _ h hf => (wellFormed_of_exec h hf).header

/-! ### The state after a frame operation -/

/-- The display receives the part of a frame that R175 gives it. -/
theorem partOfFrame_delivered (x : Transfer) (bytes : List Byte) : partOfFrame x bytes (x.delivered bytes) := by
  obtain ⟨result, arrived⟩ := x
  cases result <;> rfl

/-- Emitting a frame and responding without data is `frameState` (R170). -/
theorem respond_emit (s : State) (kind : FrameKind) (bytes : List Byte) (code : RespCode) :
    (s.emit kind bytes).respond code .none = frameState s kind bytes (s.xfer.delivered bytes) code := rfl

/-- What SENDC leaves (R180). -/
theorem effect_sendc (p : List Byte) (s : State) :
    effect (.sendc p) s =
      frameState s .cmd (cmdFrame p) (s.xfer.delivered (cmdFrame p)) s.xfer.result.response :=
  respond_emit s _ _ _

/-- What SENDF leaves: SENT becomes 1 where the result is OK (R171). -/
theorem effect_sendf (s : State) :
    effect .sendf s =
      { frameState s .data (dataFrame (s.fb s.curPhys)) (s.xfer.delivered (dataFrame (s.fb s.curPhys)))
          s.xfer.result.response with sent := s.sent || decide (s.xfer.result = .ok) } := by
  rw [← respond_emit]
  rfl

/-! ### The data frame of current -/

@[simp] theorem length_dataFrame (m : Memory) : (dataFrame m).length = 1026 := by simp [dataFrame, FB_BYTES]

/-- Byte k of a whole-buffer read, where there is one (R65). -/
theorem Memory.getElem?_toBytes (m : Memory) {k : Nat} (hk : k < FB_BYTES) : m.toBytes[k]? = some (m.read k) := by
  rw [Memory.toBytes, List.getElem?_map, List.getElem?_range hk, Option.map_some]

/-- After its header a data frame has the bytes of its buffer in order (R172). -/
theorem getElem?_dataFrame (m : Memory) {k : Nat} (hk : k < FB_BYTES) : (dataFrame m)[k + 2]? = some (m.read k) := by
  rw [dataFrame, List.getElem?_cons_succ, List.getElem?_cons_succ, Memory.getElem?_toBytes m hk]

/-- Settles O49: no fault applies to SENDF of a defined current buffer, and the frame it emits is the data frame of it. -/
theorem sendfEmitsCurrent : Obligations.SendfEmitsCurrent := by
  intro s hrun hdef
  have hi : faultOf .sendf s = none := by simpa [faultOf] using hdef
  refine ⟨dataFrame (s.fb s.curPhys), _, _, ?_, length_dataFrame _, rfl, rfl, fun k hk => getElem?_dataFrame _ hk,
    partOfFrame_delivered _ _, Xfer.byte_response _⟩
  rw [exec_effect hrun hi, effect_sendf]

/-! ### The command frame of a payload -/

/-- Settles O50: no fault applies to SENDC of a payload that is not empty, and the frame it emits is the command frame of
it. -/
theorem sendcEmitsPayload : Obligations.SendcEmitsPayload := by
  intro p s hrun hpos _
  have hi : faultOf (.sendc p) s = none := if_neg (by omega)
  refine ⟨_, _, ?_, partOfFrame_delivered _ _, Xfer.byte_response _⟩
  rw [exec_effect hrun hi, effect_sendc]
  rfl

end Sys2Proof.Machine
end

section
/-! Faults: the word of an operation that decodes (R70 to R76), entry into the fault state (R210 to R213), and what commands
do in it (R214, R215). -/

namespace Sys2Proof

/-! ### The word of an operation -/

/-- A word that decodes is the word of the operation it decodes to: it is made of its fields in each of the four formats
(R70 to R76). -/
theorem encode_of_decode {w : Word} {p : List Byte} {i : Instr} (h : decode w p = .ok i) : encode i = w := by
  obtain ⟨hlen, o, ho, hr, rfl⟩ := decode_ok h
  have hop := code_of_opcodeOf ho
  cases o with
  | GET | SET => exact wordC_eq hop hr
  | CLEAR | RDBYTES => exact (congrArg (wordB _) (Role.bit_ofBit _)).trans (wordB_eq hop hr)
  | RDSTAT => exact (congrArg (wordB _) (StatSel.bit_ofBit _)).trans (wordB_eq hop hr)
  | LDSEED | SENDC => exact wordL_eq hop hr (by rw [hlen, payloadLen, ho])
  | STEP | SWAP | SENDF | SENDINIT => exact wordN_eq hop hr

end Sys2Proof

namespace Sys2Proof.Machine

/-! ### Entry into the fault state -/

/-- The terms of the claims against those of the machine (R213). -/
theorem respond_enterFault (s : State) (code : FaultCode) (w : Word) :
    (s.enterFault code w).respond .fault .none = faultState s code w := rfl

/-- Settles O18: the word of the record is the one the faulting operation records, and an operation without a fault leaves
FAULTED as it was. -/
theorem faultEntryIsPrecise : Obligations.FaultEntryIsPrecise := by
  intro s t c rest hinputs hrun hstep hfaulted
  rw [step_command hinputs] at hstep
  rcases issue_cases hstep with ⟨i, hd, hi⟩ | ⟨code, hcode, ⟨hs, -⟩ | ⟨-, rfl⟩⟩
  · rcases exec_cases hi with ⟨hs, -, -⟩ | ⟨-, code, hcode, rfl⟩ | ⟨-, -, rfl⟩
    · cases hrun.symm.trans hs
    · rw [encode_of_decode hd]
      exact ⟨code, faultOf_ne_none hcode, rfl⟩
    · rw [effect_faulted] at hfaulted
      cases hrun.symm.trans hfaulted
  · cases hrun.symm.trans hs
  · have hne : code ≠ .none := by rcases hcode with rfl | rfl <;> decide
    exact ⟨code, hne, rfl⟩

/-! ### The lowest cause -/

/-- The checks of an operation in the order in which it makes them, each with the fault it raises and whether it does
(R210, R211). -/
def checks (i : Instr) (s : State) : List (FaultCode × Bool) :=
  match i with
  | .get r x y => [(.coordRange, !inGetRange (coordX x) (coordY y)), (.undefinedRead, !s.defd (s.phys r))]
  | .set _ x y => [(.coordRange, !inSetRange (coordX x) (coordY y)), (.lockedWrite, s.stepped)]
  | .clear _ => [(.lockedWrite, s.stepped)]
  | .rdbytes r => [(.undefinedRead, !s.defd (s.phys r))]
  | .ldseed p => [(.seedLength, p.length != FB_BYTES), (.lockedWrite, s.stepped)]
  | .step => [(.undefinedRead, !s.defd s.curPhys), (.nextNotClear, !s.nxtZero)]
  | .swap => [(.swapOrder, !s.swapAllowed)]
  | .sendf => [(.undefinedRead, !s.defd s.curPhys)]
  | .sendc p => [(.cmdLength, p.length == 0)]
  | .sendinit => []
  | .rdstat _ => []

/-- The fault an operation raises is that of its first check that fails. -/
theorem faultOf_eq_find (i : Instr) (s : State) : faultOf i s = ((checks i s).find? (·.2)).map (·.1) := by
  cases i with
  | get r x y =>
    simp only [faultOf, checks]
    cases inGetRange (coordX x) (coordY y) <;> cases s.defd (s.phys r) <;> rfl
  | set r x y =>
    simp only [faultOf, checks]
    cases inSetRange (coordX x) (coordY y) <;> cases s.stepped <;> rfl
  | clear r => simp only [faultOf, checks]; cases s.stepped <;> rfl
  | rdbytes r => simp only [faultOf, checks]; cases s.defd (s.phys r) <;> rfl
  | ldseed p =>
    simp only [faultOf, checks]
    by_cases h : p.length = FB_BYTES <;> cases s.stepped <;> simp [h]
  | step =>
    simp only [faultOf, checks]
    cases s.defd s.curPhys <;> cases s.nxtZero <;> rfl
  | swap => simp only [faultOf, checks]; cases s.swapAllowed <;> rfl
  | sendf => simp only [faultOf, checks]; cases s.defd s.curPhys <;> rfl
  | sendc p => by_cases h : p.length = 0 <;> simp [faultOf, checks, h]
  | sendinit | rdstat => rfl

/-- An operation makes its checks in the order of the codes (R212). -/
theorem checks_pairwise (i : Instr) (s : State) :
    (checks i s).Pairwise fun a b => (faultNumber a.1).toNat < (faultNumber b.1).toNat := by
  cases i <;> simp [checks, faultNumber]

/-- The cause of a fault holds exactly where a check that raises it fails (R210, R211). -/
theorem causeHolds_iff_mem_checks (i : Instr) (s : State) (code : FaultCode) :
    causeHolds i s code ↔ (code, true) ∈ checks i s := by
  cases code with
  | none | illegalOpcode | reservedBits | cmdLength | lockedWrite | undefinedRead => cases i <;> simp [causeHolds, checks]
  | seedLength => cases i <;> simp [causeHolds, checks, FB_BYTES]
  | coordRange => cases i <;> simp [causeHolds, checks, coordX, coordY, ← inGetRange_iff, ← inSetRange_iff, -not_and]
  | nextNotClear => cases i <;> simp [causeHolds, checks, ← Bool.not_eq_true, s.nxtZero_iff, FB_BYTES, -not_and]
  | swapOrder => cases i <;> simp [causeHolds, checks, ← s.swapAllowed_iff, -not_and]

/-- In a list in rising order the first marked entry is the lowest marked one. -/
theorem find?_marked_eq_some_iff {α : Type} {f : α → Nat} {l : List (α × Bool)}
    (hl : l.Pairwise fun a b => f a.1 < f b.1) (c : α) :
    (l.find? (·.2)).map (·.1) = some c ↔ (c, true) ∈ l ∧ ∀ low, f low < f c → (low, true) ∉ l := by
  induction l with
  | nil => simp
  | cons a l ih =>
    obtain ⟨hrest, htail⟩ := List.pairwise_cons.mp hl
    obtain ⟨a, marked⟩ := a
    cases marked with
    | false => simpa using ih htail
    | true =>
      rw [List.find?_cons_of_pos (by rfl), Option.map_some, Option.some_inj]
      constructor
      · rintro rfl
        refine ⟨List.mem_cons_self, fun low hlow hmem => ?_⟩
        rcases List.mem_cons.mp hmem with heq | hmem
        · cases heq
          exact lt_irrefl _ hlow
        · exact lt_asymm hlow (hrest _ hmem)
      · rintro ⟨hmem, hlowest⟩
        rcases List.mem_cons.mp hmem with heq | hmem
        · exact (congrArg Prod.fst heq).symm
        · exact absurd List.mem_cons_self (hlowest a (hrest _ hmem))

/-- The fault of an operation is its cause with the lowest code (R212). -/
theorem faultOf_eq_some_iff (i : Instr) (s : State) (code : FaultCode) :
    faultOf i s = some code ↔
      causeHolds i s code ∧ ∀ low, (faultNumber low).toNat < (faultNumber code).toNat → ¬ causeHolds i s low := by
  simp only [causeHolds_iff_mem_checks, faultOf_eq_find]
  exact find?_marked_eq_some_iff (f := fun c => (faultNumber c).toNat) (checks_pairwise i s) code

/-- Without a cause an operation has no fault (R211). -/
theorem faultOf_eq_none_of_no_cause {i : Instr} {s : State} (h : ∀ code, ¬ causeHolds i s code) : faultOf i s = none :=
  Option.eq_none_iff_forall_ne_some.mpr fun code hcode => h code ((faultOf_eq_some_iff i s code).mp hcode).1

/-- Outside the fault state an operation enters it with the fault that applies to it, and only so (R213). -/
theorem exec_eq_faultState_iff {i : Instr} {s : State} (hs : s.faulted = false) (code : FaultCode) :
    exec i s = .next (faultState s code (encode i)) ↔ faultOf i s = some code := by
  cases hf : faultOf i s with
  | none =>
    rw [exec_effect hs hf]
    refine ⟨fun h => ?_, nofun⟩
    injection h with h
    have hfaulted := congrArg State.faulted h
    rw [effect_faulted, hs] at hfaulted
    cases hfaulted
  | some c =>
    rw [exec_fault hs hf, respond_enterFault]
    refine ⟨fun h => ?_, fun h => by cases h; rfl⟩
    injection h with h
    exact congrArg some (congrArg State.faultCode h)

/-- Settles O21: an operation makes its checks in the order of the codes, so the first that fails is the lowest cause. -/
theorem faultIsLowestCause : Obligations.FaultIsLowestCause := by
  intro i s hrun
  refine ⟨fun code => (exec_eq_faultState_iff hrun code).trans (faultOf_eq_some_iff i s code), fun hnone => ?_⟩
  exact ⟨effect i s, exec_effect hrun (faultOf_eq_none_of_no_cause hnone), (effect_faulted i s).trans hrun⟩

/-! ### Commands in the fault state -/

/-- What a command word is answered in the fault state (R214). -/
def answerInFault (s : State) (w : Word) : Response :=
  if w = 0xB0000000#32 then ⟨.ok, .word s.status⟩
  else if w = 0xB8000000#32 then ⟨.ok, .word s.faultWord⟩
  else ⟨.rejected, .none⟩

/-- Only the two words of RDSTAT decode to an operation that runs in the fault state (R84, R214). -/
theorem eq_rdstat_of_runsFaulted {w : Word} {p : List Byte} {i : Instr} (h : decode w p = .ok i)
    (hi : runsFaulted i = true) : w = 0xB0000000#32 ∨ w = 0xB8000000#32 := by
  rw [← encode_of_decode h]
  cases i with
  | rdstat sel =>
    cases sel with
    | status => exact .inl rfl
    | fault => exact .inr rfl
  | get | set | clear | rdbytes | ldseed | step | swap | sendf | sendc | sendinit => cases hi

/-- In the fault state a word other than those of RDSTAT is rejected, whether or not it names an operation (R214). -/
theorem issue_rejected {c : Command} {s : State} (hs : s.faulted = true) (hlen : c.payload.length = payloadLen c.word)
    (hstatus : c.word ≠ 0xB0000000#32) (hfault : c.word ≠ 0xB8000000#32) :
    issue c s = .next (s.respond .rejected .none) := by
  obtain ⟨t, ht⟩ := issue_answers hlen s
  rcases issue_cases ht with ⟨i, hd, -⟩ | ⟨-, -, ⟨-, rfl⟩ | ⟨hrun, -⟩⟩
  · have hi : runsFaulted i = false := by
      by_contra hi
      exact (eq_rdstat_of_runsFaulted hd (Bool.eq_true_of_not_eq_false hi)).elim hstatus hfault
    rw [issue, hd]
    exact exec_rejected hs hi
  · exact ht
  · cases hrun.symm.trans hs

/-- A word of RDSTAT with its empty payload reads the register it names (R200, R214). -/
theorem issue_rdstat {c : Command} {sel : StatSel} (hword : c.word = encode (.rdstat sel))
    (hlen : c.payload.length = payloadLen c.word) (s : State) :
    issue c s = .next (s.respond .ok (.word (s.control sel))) := by
  have hd : decode c.word c.payload = .ok (.rdstat sel) := by
    rw [hword] at hlen ⊢
    cases sel with
    | status | fault => exact decode_legal (o := .RDSTAT) hlen rfl rfl
  rw [issue, hd]
  exact exec_rdstat sel s

/-- In the fault state a command with its payload is answered and changes nothing (R214). -/
theorem issue_faulted {c : Command} {s : State} (hs : s.faulted = true) (hlen : c.payload.length = payloadLen c.word) :
    issue c s = .next { s with responses := s.responses ++ [answerInFault s c.word] } := by
  rw [answerInFault]
  split_ifs with hstatus hfault
  · exact issue_rdstat (sel := .status) hstatus hlen s
  · exact issue_rdstat (sel := .fault) hfault hlen s
  · exact issue_rejected hs hlen hstatus hfault

/-- Settles O22: taking the record from the port changes neither FAULTED nor a register RDSTAT reads. -/
theorem faultStateIsSticky : Obligations.FaultStateIsSticky := by
  intro s c rest hinputs hfaulted hpayload
  rw [step_command hinputs]
  exact issue_faulted (s := s.takeCommand c rest) hfaulted (hpayload.trans (lenAsked_eq _))

/-- A command that the fault state answers changes the ports alone (R214). -/
theorem step_faulted {s t : State} {c : Command} {rest : List Input} (hinputs : s.inputs = .command c :: rest)
    (hs : s.faulted = true) (h : step s = .next t) :
    ∃ x responses, t = { s with inputs := rest, xfer := x, responses := responses } := by
  rw [step_command hinputs] at h
  have hlen : c.payload.length = payloadLen c.word := by
    by_contra hlen
    rw [issue_waits hlen] at h
    cases h
  rw [issue_faulted (s := s.takeCommand c rest) hs hlen] at h
  cases h
  exact ⟨_, _, rfl⟩

/-- The first of the steps of a run. -/
theorem run_succ {M : Host.Core} {n : Nat} {s t : M.State} (h : M.run (n + 1) s = .next t) :
    ∃ u, M.step s = .next u ∧ M.run n u = .next t := by
  unfold Host.Core.run at h
  split at h
  · rename_i u hstep
    exact ⟨u, hstep, h⟩
  · cases h
  · cases h

/-- From the fault state any number of commands changes the ports alone (R214). -/
theorem run_faulted {n : Nat} {s t : State} (hs : s.faulted = true) (hcommands : ∀ i ∈ s.inputs, ∃ c, i = .command c)
    (h : Host.Core.run Sys2Proof.core n s = .next t) :
    ∃ inputs x responses, t = { s with inputs := inputs, xfer := x, responses := responses } := by
  induction n generalizing s with
  | zero => cases h; exact ⟨_, _, _, rfl⟩
  | succ n ih =>
    obtain ⟨u, hstep, hrun⟩ := run_succ h
    obtain ⟨i, rest, hinputs, -⟩ := step_cases hstep
    rw [hinputs] at hcommands
    obtain ⟨⟨c, rfl⟩, hrest⟩ := List.forall_mem_cons.mp hcommands
    obtain ⟨x, responses, rfl⟩ := step_faulted hinputs hs hstep
    exact ih (s := { s with inputs := rest, xfer := x, responses := responses }) hs hrest hrun

/-- Settles O23: the fields named are none of the ports. -/
theorem firstFaultIsKept : Obligations.FirstFaultIsKept := by
  intro n s t hs hcommands h
  obtain ⟨inputs, x, responses, rfl⟩ := run_faulted hs hcommands h
  exact ⟨hs, rfl, rfl, rfl, rfl, rfl, rfl⟩

end Sys2Proof.Machine
end

section
/-! The generation sequence from BOOT on, with the frames it sends (R83, R254). -/

namespace Sys2Proof.Machine

/-! ### A run that ends outside the fault state -/

/-- An operation that ends outside the fault state started there and had its effect: only RST leaves the fault state
(R214). -/
theorem eq_effect_of_exec {i : Instr} {s t : State} (h : exec i s = .next t) (ht : t.faulted = false) :
    t = effect i s := by
  rcases exec_cases h with ⟨hs, -, rfl⟩ | ⟨-, code, -, rfl⟩ | ⟨-, -, rfl⟩
  · cases hs.symm.trans ht
  · cases ht
  · rfl

/-- Operations that end outside the fault state started outside it (R214). -/
theorem running_of_execAll {is : List Instr} {s t : State} (h : execAll is s = .next t) (ht : t.faulted = false) :
    s.faulted = false := by
  induction is generalizing s with
  | nil => cases h; exact ht
  | cons i is ih =>
    obtain ⟨u, hu⟩ := exec_answers i s
    rw [execAll, hu] at h
    have hrun := ih h
    rwa [eq_effect_of_exec hu hrun, effect_faulted] at hrun

/-- Operations that end outside the fault state had their effects, one after the other. -/
theorem eq_foldl_effect_of_execAll {is : List Instr} {s t : State} (h : execAll is s = .next t) (ht : t.faulted = false) :
    t = is.foldl (fun u i => effect i u) s := by
  induction is generalizing s with
  | nil => cases h; rfl
  | cons i is ih =>
    obtain ⟨u, hu⟩ := exec_answers i s
    rw [execAll, hu] at h
    rw [List.foldl_cons, ← eq_effect_of_exec hu (running_of_execAll h ht)]
    exact ih h

/-! ### The frames of the generations -/

/-- A data frame in the literals of R254: the header, then the 1024 bytes of the buffer (R172). -/
theorem dataFrame_eq (m : Memory) : dataFrame m = [0x78#8, 0x40#8] ++ (List.range 1024).map m.read := by
  simp only [dataFrame, ADDR, MODE_DATA, Memory.toBytes, FB_BYTES, List.cons_append, List.nil_append]

/-- The bytes of the init frame (R182). -/
theorem cmdFrame_INIT_SEQ : cmdFrame INIT_SEQ =
    [0x78#8, 0x00#8, 0xA8#8, 0x3F#8, 0x8D#8, 0x14#8, 0x20#8, 0x00#8, 0xC8#8, 0xA1#8, 0xDA#8, 0x12#8, 0xAF#8] := rfl

/-- The data frames of `n` generations from `m` on, each sent with result OK (R172, R254). -/
def generationFrames (n : Nat) (m : Memory) : List FrameRecord :=
  (List.range n).map fun k => ⟨.data, dataFrame (lifeIter k m), .ok⟩

/-- The frames of the generations after the first are those from its Life on. -/
theorem generationFrames_succ (n : Nat) (m : Memory) :
    generationFrames (n + 1) m = ⟨.data, dataFrame m, .ok⟩ :: generationFrames n (life m) := by
  rw [generationFrames, List.range_succ_eq_map, List.map_cons, List.map_map]
  rfl

/-- `n` generations by GEN from `s` to `t` that show each generation before they leave it, and leave SENT = 0
(R171, R254). -/
structure ShownGenerations (n : Nat) (s t : State) : Prop extends Generations gen n s t where
  unsent : t.sent = false
  outLog : t.outLog = s.outLog ++ generationFrames n (s.fb (s.phys .cur))

/-- No generation at all. -/
theorem ShownGenerations.refl {s : State} (h : s.ready) (hsent : s.sent = false) : ShownGenerations 0 s s where
  toGenerations := .refl gen h
  unsent := hsent
  outLog := (List.append_nil _).symm

/-- One generation, and n more. -/
theorem ShownGenerations.cons {n : Nat} {s u t : State} (h : ShownGenerations 1 s u) (h' : ShownGenerations n u t) :
    ShownGenerations (n + 1) s t where
  toGenerations := h.toGenerations.cons h'.toGenerations
  unsent := h'.unsent
  outLog := by
    have hcur : u.fb (u.phys .cur) = life (s.fb (s.phys .cur)) := h.current
    rw [h'.outLog, h.outLog, hcur, List.append_assoc, generationFrames_succ n]
    rfl

/-- GEN sends the frame of current before SWAP, and SWAP clears SENT (R150, R171). -/
theorem State.ready.shownGenerations_gen {s : State} (h : s.ready) (hx : s.xfer.result = .ok) :
    ∃ t, ShownGenerations 1 s t := by
  obtain ⟨t, ht⟩ := h.generations_gen hx
  have heffects := eq_foldl_effect_of_execAll ht.exec ht.ready.running
  rw [List.replicate_one, List.flatten_singleton] at heffects
  refine ⟨t, ht, ?_, ?_⟩
  · simp [heffects, gen, effect, change]
  · simp [heffects, gen, effect, change, hx, State.fb_setFb, generationFrames, lifeIter]

/-- Any number of GEN show their generations, from a ready state with SENT = 0 where the transport answers OK (R254). -/
theorem exists_shownGenerations {s : State} (h : s.ready) (hsent : s.sent = false) (hx : s.xfer.result = .ok) (n : Nat) :
    ∃ t, ShownGenerations n s t := by
  induction n generalizing s with
  | zero => exact ⟨s, .refl h hsent⟩
  | succ n ih =>
    obtain ⟨u, hu⟩ := h.shownGenerations_gen hx
    obtain ⟨t, ht⟩ := ih hu.ready hu.unsent (by rw [hu.xfer, hx])
    exact ⟨t, hu.cons ht⟩

/-! ### BOOT -/

/-- `t` is ready with the seed in current, and the init frame went out (R83, R104, R106, R182). -/
structure Booted (seed : List Byte) (s t : State) : Prop where
  exec : execAll (boot seed) s = .next t
  ready : t.ready
  current : t.fb (t.phys .cur) = Memory.ofBytes seed
  sent : t.sent = s.sent
  curPhys : t.curPhys = s.curPhys
  outLog : t.outLog = s.outLog ++ [⟨.cmd, cmdFrame INIT_SEQ, s.xfer.result⟩]
  xfer : t.xfer = s.xfer

/-- BOOT of a whole seed completes outside the fault state and the lock, whatever the buffers held (R83). -/
theorem exists_booted {seed : List Byte} {s : State} (hseed : seed.length = FB_BYTES) (hrun : s.faulted = false)
    (hunlocked : s.stepped = false) : ∃ t, Booted seed s t := by
  have hldseed : faultOf (.ldseed seed) s = none := by simp [faultOf, hseed, hunlocked]
  have hclear : faultOf (.clear .nxt) (effect (.ldseed seed) s) = none := by simp [faultOf, effect, change, hunlocked]
  refine ⟨effect .sendinit (effect (.clear .nxt) (effect (.ldseed seed) s)), ?exec, ?ready, ?current, ?sent, ?curPhys,
    ?outLog, ?xfer⟩
  case exec =>
    rw [boot, execAll_cons_effect hrun hldseed, execAll_cons_effect (by simp [hrun]) hclear,
      execAll_cons_effect (by simp [hrun]) rfl, execAll]
  case ready =>
    refine ⟨by simp [hrun], ?_, ?_, ?_, ?_⟩
    · simp [effect, change, hunlocked]
    · simp [effect, change, State.defd_setDef]
    · simp [effect, change]
    · simp [effect, change]
  case current => simp [effect, change, State.fb_setFb]
  case sent | curPhys | outLog => simp [effect, change]
  case xfer => simp

/-- Settles O48: BOOT leaves a ready state, from which each GEN is a generation that is shown. -/
theorem generationSequence : Obligations.GenerationSequence := by
  intro seed n s hseed hrun hunlocked hsent hx
  obtain ⟨u, hu⟩ := exists_booted hseed hrun hunlocked
  obtain ⟨t, ht⟩ := exists_shownGenerations hu.ready (hu.sent.trans hsent) (by rw [hu.xfer, hx]) n
  refine ⟨t, (execAll_append hu.exec).trans ht.exec, ?_, ht.ready, ht.unsent, ?_, ?_⟩
  · rw [ht.current, hu.current]
  · rw [ht.curPhys, hu.curPhys]
  · rw [ht.outLog, hu.outLog, hu.current, hx, cmdFrame_INIT_SEQ]
    simp only [generationFrames, dataFrame_eq]

end Sys2Proof.Machine
end

section
/-! Encoding: decoding undoes encoding and encoding undoes decoding (R70 to R76), the opcode table against the decoder
(R76), and the coordinates of GET and SET (R71, R82). -/

namespace Sys2Proof

/-! ### Decoding the word of an operation -/

/-- The operation code of an operation's word names that operation (R70, R76). -/
theorem opcodeOf_opField_encode (i : Instr) : opcodeOf (opField (encode i)) = some i.opcode := by
  cases i with
  | get r x y => exact Laws.OpField.get r x y
  | set r x y => exact Laws.OpField.set r x y
  | clear r => exact Laws.OpField.clear r
  | rdbytes r => exact Laws.OpField.rdbytes r
  | ldseed p => exact Laws.OpField.ldseed p
  | step => exact Laws.OpField.step
  | swap => exact Laws.OpField.swap
  | sendf => exact Laws.OpField.sendf
  | sendc p => exact Laws.OpField.sendc p
  | sendinit => exact Laws.OpField.sendinit
  | rdstat sel => exact Laws.OpField.rdstat sel

/-- The encoder leaves the must-be-zero bits of the format zero (R78). -/
theorem encode_reserved (i : Instr) : encode i &&& i.opcode.format.reservedMask = 0#32 := by
  cases i with
  | get | set => exact wordC_reserved _ _ _ _
  | clear | rdbytes | rdstat => exact wordB_reserved _ _
  | step | swap | sendf | sendinit => exact wordN_reserved _
  | ldseed | sendc => exact wordL_reserved _ _

/-- The word of a well-formed operation asks for the operation's payload (R73). -/
theorem payloadLen_encode {i : Instr} (h : i.wellFormed = true) : payloadLen (encode i) = i.payload.length := by
  rw [payloadLen, opcodeOf_opField_encode]
  cases i with
  | ldseed p | sendc p => exact lenField_wordL_toNat _ p h
  | get | set | clear | rdbytes | step | swap | sendf | sendinit | rdstat => rfl

/-- The operands of an operation stand in the fields of its word (R71 to R73). -/
theorem operation_encode (i : Instr) : operation i.opcode (encode i) i.payload = i := by
  cases i with
  | get | set | clear | rdbytes | rdstat => simp [operation, Instr.opcode, encode]
  | ldseed | step | swap | sendf | sendc | sendinit => rfl

/-- Settles O1: the word has a legal operation code, zero reserved bits and its payload, and its fields are the operands. -/
theorem decodeInvertsEncode : Obligations.DecodeInvertsEncode := by
  intro i hi
  rw [decode_legal (payloadLen_encode hi).symm (opcodeOf_opField_encode i) (encode_reserved i), operation_encode]

/-! ### Encoding what has been decoded -/

/-- The payload of a record that decodes is the operation's, of a length its word can state (R73). -/
theorem payload_of_decode {w : Word} {p : List Byte} {i : Instr} (h : decode w p = .ok i) :
    i.payload = p ∧ i.wellFormed = true := by
  obtain ⟨hlen, o, ho, -, rfl⟩ := decode_ok h
  rw [payloadLen, ho] at hlen
  cases o with
  | LDSEED | SENDC =>
    have hfits : lenFits p = true := decide_eq_true (hlen ▸ (lenField w).isLt)
    exact ⟨rfl, hfits⟩
  | GET | SET | CLEAR | RDBYTES | STEP | SWAP | SENDF | SENDINIT | RDSTAT =>
    exact ⟨(List.length_eq_zero_iff.mp hlen).symm, rfl⟩

/-- Settles O2: the word is made of its fields, and so is the payload. -/
theorem encodeInvertsDecode : Obligations.EncodeInvertsDecode :=
  fun _ _ _ h => ⟨encode_of_decode h, payload_of_decode h⟩

/-! ### The opcode table -/

@[simp] theorem opcode_operation (o : Opcode) (w : Word) (p : List Byte) : (operation o w p).opcode = o := by
  cases o <;> rfl

theorem opcodeOf_eq_some_iff {op : BitVec 4} {o : Opcode} : opcodeOf op = some o ↔ op = o.code :=
  ⟨code_of_opcodeOf, fun h => h ▸ opcodeOf_code o⟩

/-- A word with its payload decodes to an operation of an opcode exactly where it has that operation code and zero reserved
bits (R75). -/
theorem exists_decode_iff {w : Word} {p : List Byte} (hp : p.length = payloadLen w) (o : Opcode) :
    (∃ i, decode w p = .ok i ∧ i.opcode = o) ↔ opField w = o.code ∧ w &&& o.format.reservedMask = 0#32 := by
  constructor
  · rintro ⟨i, hd, rfl⟩
    obtain ⟨-, o, ho, hr, rfl⟩ := decode_ok hd
    rw [opcode_operation]
    exact ⟨code_of_opcodeOf ho, hr⟩
  · rintro ⟨hop, hr⟩
    exact ⟨_, decode_legal hp (opcodeOf_eq_some_iff.mpr hop) hr, opcode_operation _ _ _⟩

/-- The bits of OP, as a mask (R70). -/
def opMask : Word := 0xF0000000#32

/-- OP alone, in its place (R70). -/
theorem and_opMask_eq_iff (w : Word) (op : BitVec 4) : w &&& opMask = op ++ 0#28 ↔ opField w = op := by
  have mask (j : Fin 32) : opMask.getLsbD j = decide (28 ≤ j.val) := by revert j; decide
  have hand : w &&& opMask = opField w ++ 0#28 := by
    apply BitVec.eq_of_getLsbD_eq
    intro i hi
    rw [BitVec.getLsbD_and, mask ⟨i, hi⟩, BitVec.getLsbD_append, opField, BitVec.getLsbD_extractLsb']
    by_cases h : i < 28
    · simp [h]
    · simp [h, show 28 ≤ i by omega, show i - 28 < 4 by omega, show 28 + (i - 28) = i by omega]
  rw [hand]
  exact ⟨fun h => (BitVec.append_left_inj _).mp h, fun h => h ▸ rfl⟩

/-- The match of a row is its operation code, and its mask covers OP and the must-be-zero bits of its format (R76, R78). -/
theorem row_of_mem_opcodeTable : ∀ row ∈ Machine.opcodeTable,
    row.2.1 = row.1.code ++ 0#28 ∧ row.2.2 = opMask ||| row.1.format.reservedMask := by decide

/-- A match that a second mask does not touch is tested by each of two masks joined (R76). -/
theorem and_or_eq_iff {n : Nat} (w a b m : BitVec n) (hm : m &&& b = 0#n) :
    w &&& (a ||| b) = m ↔ w &&& a = m ∧ w &&& b = 0#n := by
  have habsorb : w &&& (a ||| b) &&& b = w &&& b := by
    ext i hi
    simp only [BitVec.getElem_and, BitVec.getElem_or]
    cases b[i] <;> simp
  constructor
  · intro h
    have hb : w &&& b = 0#n := by rw [← habsorb, h, hm]
    refine ⟨?_, hb⟩
    rwa [BitVec.and_or_distrib_left, hb, BitVec.or_zero] at h
  · rintro ⟨ha, hb⟩
    rw [BitVec.and_or_distrib_left, ha, hb, BitVec.or_zero]

/-- OP lies outside the must-be-zero bits of every format (R70, R78). -/
theorem code_reserved (o : Opcode) : (o.code ++ 0#28) &&& o.format.reservedMask = 0#32 := by
  cases o <;> rfl

/-- Mask and match test the operation code and the reserved bits (R76). -/
theorem and_mask_eq_match_iff (w : Word) (o : Opcode) :
    w &&& (opMask ||| o.format.reservedMask) = o.code ++ 0#28 ↔
      opField w = o.code ∧ w &&& o.format.reservedMask = 0#32 := by
  rw [and_or_eq_iff w _ _ _ (code_reserved o), and_opMask_eq_iff]

/-- Settles O3: the mask of a row tests the operation code and the reserved bits, which is what the decoder tests. -/
theorem wordSelectsByMaskAndMatch : Obligations.WordSelectsByMaskAndMatch := by
  intro w p hlen row hrow
  obtain ⟨hmatch, hmask⟩ := row_of_mem_opcodeTable row hrow
  rw [hmatch, hmask]
  have hp : p.length = payloadLen w := hlen.trans (Machine.lenAsked_eq w)
  refine ⟨(and_mask_eq_match_iff w row.1).trans (exists_decode_iff hp row.1).symm, fun hop hfail => ?_⟩
  have hcode : opField w = row.1.code := by
    rw [Machine.opNumber_eq, Machine.opNumber_eq] at hop
    exact (BitVec.eq_of_toNat_eq hop).trans (opField_wordN row.1)
  refine decode_reservedBits hp (opcodeOf_eq_some_iff.mpr hcode) fun hr => hfail ?_
  exact (and_mask_eq_match_iff w row.1).mpr ⟨hcode, hr⟩

/-! ### Coordinates -/

/-- A two's complement number from its unsigned value and its sign bit (R71). -/
theorem toInt_eq_sub_sign {n : Nat} (x : BitVec (n + 1)) :
    x.toInt = (x.toNat : Int) - if x.toNat / 2 ^ n = 1 then 2 ^ (n + 1) else 0 := by
  have hlt := x.isLt
  have hdiv : x.toNat / 2 ^ n = 1 ↔ 2 ^ n ≤ x.toNat := by
    rw [Nat.div_eq_iff (Nat.two_pow_pos n)]
    omega
  rw [BitVec.toInt_eq_toNat_cond, pow_succ]
  split_ifs <;> push_cast <;> omega

/-- R is bit 27 (R71). -/
theorem ofBit_selField_eq_nxt_iff (w : Word) : Role.ofBit (selField w) = .nxt ↔ w.toNat / 2 ^ 27 % 2 = 1 := by
  have hofBit (b : Bool) : Role.ofBit b = .nxt ↔ b = true := by cases b <;> decide
  rw [hofBit, selField, BitVec.getLsbD, Nat.testBit_eq_decide_div_mod_eq, decide_eq_true_iff]

/-- X is bits 26..18 in two's complement (R71). -/
theorem toInt_xField (w : Word) :
    (xField w).toInt = (w.toNat / 2 ^ 18 % 2 ^ 9 : Nat) - (if w.toNat / 2 ^ 26 % 2 = 1 then 512 else 0) := by
  have hx : (xField w).toNat = w.toNat / 2 ^ 18 % 2 ^ 9 := by
    rw [xField, BitVec.extractLsb'_toNat, Nat.shiftRight_eq_div_pow]
  rw [toInt_eq_sub_sign, hx, show w.toNat / 2 ^ 18 % 2 ^ 9 / 2 ^ 8 = w.toNat / 2 ^ 26 % 2 by omega]
  rfl

/-- Y is bits 17..10 in two's complement (R71). -/
theorem toInt_yField (w : Word) :
    (yField w).toInt = (w.toNat / 2 ^ 10 % 2 ^ 8 : Nat) - (if w.toNat / 2 ^ 17 % 2 = 1 then 256 else 0) := by
  have hy : (yField w).toNat = w.toNat / 2 ^ 10 % 2 ^ 8 := by
    rw [yField, BitVec.extractLsb'_toNat, Nat.shiftRight_eq_div_pow]
  rw [toInt_eq_sub_sign, hy, show w.toNat / 2 ^ 10 % 2 ^ 8 / 2 ^ 7 = w.toNat / 2 ^ 17 % 2 by omega]
  rfl

/-- The must-be-zero bits of format C are the lowest ten (R78). -/
theorem mod_eq_zero_of_reserved {w : Word} (h : w &&& Format.C.reservedMask = 0#32) : w.toNat % 2 ^ 10 = 0 := by
  rw [← Nat.and_two_pow_sub_one_eq_mod]
  exact congrArg BitVec.toNat h

/-- The operands of GET and SET are the fields of their word, and only their format has zeros in bits 9..0 (R71, R76). -/
theorem fields_of_decode_coordinates {w : Word} {p : List Byte} {r : Role} {x : BitVec 9} {y : BitVec 8}
    (h : decode w p = .ok (.get r x y) ∨ decode w p = .ok (.set r x y)) :
    r = Role.ofBit (selField w) ∧ x = xField w ∧ y = yField w ∧ w &&& Format.C.reservedMask = 0#32 := by
  rcases h with h | h
  all_goals
    obtain ⟨-, o, -, hr, hi⟩ := decode_ok h
    cases o <;> cases hi
    exact ⟨rfl, rfl, rfl, hr⟩

/-- Settles O5: the operands are the fields of the word, and those are computed from it as R71 says. -/
theorem coordinatesAreSignExtended : Obligations.CoordinatesAreSignExtended := by
  intro w r x y h
  obtain ⟨rfl, rfl, rfl, hr⟩ := fields_of_decode_coordinates h
  exact ⟨ofBit_selField_eq_nxt_iff w, toInt_xField w, toInt_yField w, mod_eq_zero_of_reserved hr⟩

end Sys2Proof

namespace Sys2Proof.Machine

theorem fits_iff (x y : Int) : (xFits x && yFits y) = true ↔ -256 ≤ x ∧ x ≤ 255 ∧ -128 ≤ y ∧ y ≤ 127 := by
  rw [xFits, yFits, Bool.and_eq_true, decide_eq_true_iff, decide_eq_true_iff, and_assoc]

/-- An integer that fits its field is the two's complement value of what the assembler puts there (R71, R82). -/
theorem toInt_ofInt_of_fits {x y : Int} (h : (xFits x && yFits y) = true) :
    (BitVec.ofInt 9 x).toInt = x ∧ (BitVec.ofInt 8 y).toInt = y := by
  obtain ⟨hx0, hx1, hy0, hy1⟩ := (fits_iff x y).mp h
  exact ⟨BitVec.toInt_ofInt_eq_self (by decide) (by omega) (by omega),
    BitVec.toInt_ofInt_eq_self (by decide) (by omega) (by omega)⟩

/-- An operation on coordinates is assembled where both fit, with the coordinates as given (R82). -/
theorem assembled_iff (op : BitVec 9 → BitVec 8 → Instr) (x y : Int) :
    (∀ i, (if xFits x && yFits y then some (op (BitVec.ofInt 9 x) (BitVec.ofInt 8 y)) else none) = some i →
      ∃ x' y', i = op x' y' ∧ x'.toInt = x ∧ y'.toInt = y) ∧
    ((if xFits x && yFits y then some (op (BitVec.ofInt 9 x) (BitVec.ofInt 8 y)) else none) = none ↔
      ¬ (-256 ≤ x ∧ x ≤ 255 ∧ -128 ≤ y ∧ y ≤ 127)) := by
  rw [← fits_iff]
  split_ifs with h
  · refine ⟨fun i hi => ?_, iff_of_false nofun (not_not.mpr h)⟩
    cases hi
    exact ⟨_, _, rfl, toInt_ofInt_of_fits h⟩
  · exact ⟨nofun, iff_of_true rfl h⟩

/-- Settles O6: GET and SET are assembled alike, and a field holds what fits it. -/
theorem assemblerKeepsCoordinates : Obligations.AssemblerKeepsCoordinates := by
  intro r x y
  obtain ⟨hget, hgetNone⟩ := assembled_iff (.get r) x y
  obtain ⟨hset, hsetNone⟩ := assembled_iff (.set r) x y
  exact ⟨hget, hset, hgetNone, hsetNone⟩

end Sys2Proof.Machine
end

section
/-! The step and its stops (R58, R225), reset (R250, R251), and power-on (R38). -/

namespace Sys2Proof.Machine

/-! ### The step on a command record -/

/-- Settles O8: taking the record from the port is the state the statement writes out. -/
theorem stepRunsDecodedOperation : Obligations.StepRunsDecodedOperation := by
  intro s c rest i hinputs hd
  rw [step_command hinputs, issue, hd]
  rfl

/-- A command waits exactly where its payload is not there (R81). -/
theorem issue_waits_iff (c : Command) (s : State) :
    issue c s = .fault .waitingForPayload ↔ c.payload.length ≠ payloadLen c.word := by
  refine ⟨fun h hlen => ?_, fun h => issue_waits h s⟩
  obtain ⟨t, ht⟩ := issue_answers hlen s
  cases ht.symm.trans h

/-- Settles O9: the payload is settled before every other check, and with it the command is answered. -/
theorem shortPayloadWaits : Obligations.ShortPayloadWaits := by
  intro s c rest hinputs
  rw [step_command hinputs, lenAsked_eq]
  exact ⟨issue_waits_iff c _, fun hlen => issue_answers hlen _⟩

/-- How a step can end: the block waits for a command, or for the payload of one, or has a next state (R225). -/
theorem step_ends (s : State) :
    (s.inputs = [] ∧ step s = .fault .waitingForCommand) ∨
      (∃ c rest, s.inputs = .command c :: rest ∧ c.payload.length ≠ lenAsked c.word ∧
        step s = .fault .waitingForPayload) ∨
      ∃ i rest t, s.inputs = i :: rest ∧ step s = .next t := by
  rcases hinputs : s.inputs with _ | ⟨i, rest⟩
  · exact .inl ⟨rfl, by rw [step, hinputs]⟩
  · refine .inr ?_
    cases i with
    | command c =>
      by_cases hlen : c.payload.length = payloadLen c.word
      · obtain ⟨t, ht⟩ := issue_answers hlen (s.takeCommand c rest)
        exact .inr ⟨_, _, t, rfl, (step_command hinputs).trans ht⟩
      · exact .inl ⟨c, rest, rfl, lenAsked_eq _ ▸ hlen, (step_command hinputs).trans (issue_waits hlen _)⟩
    | rst | rstDuring => exact .inr ⟨_, _, _, rfl, by rw [step, hinputs]; rfl⟩

/-- Settles O10: of the three ways a step can end two are the waits. -/
theorem stopsOnlyToWait : Obligations.StopsOnlyToWait := by
  intro s
  rcases step_ends s with ⟨hinputs, h⟩ | ⟨c, rest, hinputs, hlen, h⟩ | ⟨i, rest, t, hinputs, h⟩ <;> rw [h, hinputs]
  · exact ⟨iff_of_true rfl rfl, nofun, nofun⟩
  · exact ⟨iff_of_false nofun nofun, nofun, fun _ => ⟨c, rest, rfl, hlen⟩⟩
  · exact ⟨iff_of_false nofun nofun, nofun, nofun⟩

/-! ### Reset -/

/-- The step on RST (R250). -/
theorem step_rst {s : State} {rest : List Input} (h : s.inputs = .rst :: rest) :
    step s = .next (s.restarted rest s.received []) := by
  rw [step, h]
  exact serve_rst s rest

/-- Settles O13: the state after RST has the ports of the state before. -/
theorem rstKeepsRecords : Obligations.RstKeepsRecords :=
  fun s _ hinputs => ⟨_, step_rst hinputs, rfl, rfl, rfl, rfl, List.append_nil s.wire⟩

/-- The frames that command `c` would add to OUT_LOG, were it to run (R12, R251). -/
def framesOf (c : Command) (rest : List Input) (s : State) : List FrameRecord :=
  framesAdded (s.takeCommand c rest) (issue c (s.takeCommand c rest))

/-- The step on RST during a command: it cuts the frames the command would have added (R251). -/
theorem step_rstDuring {s : State} {c : Command} {k n : Nat} {rest : List Input}
    (h : s.inputs = .rstDuring c k n :: rest) :
    step s = .next ((s.takeCommand c rest).restarted rest
      (s.received ++ (framesOf c rest s).flatMap fun f => cutReceived k n f.bytes)
      ((framesOf c rest s).flatMap fun f => cutEmission k f.bytes)) := by
  rw [step, h]
  rfl

/-- An operation that adds a record to OUT_LOG adds that frame. -/
theorem framesOf_eq_singleton {s u : State} {c : Command} {rest : List Input} {f : FrameRecord}
    (h : issue c (s.takeCommand c rest) = .next u) (hlog : u.outLog = s.outLog ++ [f]) : framesOf c rest s = [f] := by
  rw [framesOf, h, framesAdded, hlog]
  exact List.drop_left

/-- An operation that leaves OUT_LOG as it is adds no frame, nor does a command that waits. -/
theorem framesOf_eq_nil {s : State} {c : Command} {rest : List Input}
    (h : ∀ u, issue c (s.takeCommand c rest) = .next u → u.outLog = s.outLog) : framesOf c rest s = [] := by
  rw [framesOf]
  cases hu : issue c (s.takeCommand c rest) with
  | next u => rw [framesAdded, h u hu]; exact List.drop_length
  | fault | refused => rfl

/-- RST during an operation leaves every field at its reset value (R38, R251). -/
theorem atReset_rstDuring {s : State} (h : readyAfter false s.wire = false) (c : Command) (rest : List Input) (k : Nat)
    (received : List (List Byte)) (frames : List FrameRecord) :
    ((s.takeCommand c rest).restarted rest received (frames.flatMap fun f => cutEmission k f.bytes)).atReset := by
  obtain ⟨-, hcut⟩ := orderly_flatMap_cutEmission k frames
  refine State.atReset_restarted ?_ _ _
  rw [readyAfter_append, State.takeCommand_wire, h, hcut]

/-- Of a frame cut after its first `k` events the display has at most the `k - 1` bytes written, from the front (R251). -/
theorem cutReceived_succ (k n : Nat) (bytes : List Byte) : cutReceived (k + 1) n bytes = [bytes.take (min n k)] := by
  rw [cutReceived, if_neg (by omega), written_take_emission, List.take_take, Nat.add_sub_cancel]

/-- RST during a command that adds the frames `frames` cuts those. -/
theorem exists_step_rstDuring {s : State} {c : Command} {rest : List Input} {frames : List FrameRecord}
    (h : framesOf c rest s = frames) (k n : Nat) :
    ∃ t, step { s with inputs := .rstDuring c k n :: rest } = .next t ∧
      t.wire = s.wire ++ frames.flatMap (fun f => cutEmission k f.bytes) ∧
      t.received = s.received ++ frames.flatMap (fun f => cutReceived k n f.bytes) := by
  subst h
  exact ⟨_, step_rstDuring rfl, rfl, rfl⟩

/-- Settles O14: RST cuts the frames the operation would have added, and the bytes written so far are a part of the frame
from the front. -/
theorem rstAbortsOperation : Obligations.RstAbortsOperation := by
  refine ⟨fun s c k n rest hinputs hready => ?_, fun s u c rest f hu hlog => ?_, fun s c rest hnone k n => ?_⟩
  · exact ⟨_, step_rstDuring hinputs, atReset_rstDuring hready c rest k _ _, rfl, rfl, rfl⟩
  · have hframes : framesOf c rest s = [f] := framesOf_eq_singleton hu hlog
    refine ⟨fun k n => ?_, fun m _ => ?_⟩
    · obtain ⟨t, hstep, hwire, hreceived⟩ := exists_step_rstDuring hframes k n
      rw [List.flatMap_singleton] at hwire hreceived
      refine ⟨t, hstep, hwire.trans (List.append_assoc _ _ _).symm, ?_⟩
      cases k with
      | zero => exact hreceived.trans (List.append_nil _)
      | succ k => exact ⟨min n k, Nat.min_le_right n k, hreceived.trans (by rw [cutReceived_succ])⟩
    · obtain ⟨t, hstep, -, hreceived⟩ := exists_step_rstDuring hframes (m + 1) m
      rw [List.flatMap_singleton, cutReceived_succ, Nat.min_self] at hreceived
      exact ⟨m + 1, m, t, hstep, hreceived⟩
  · have hframes : framesOf c rest s = [] := framesOf_eq_nil hnone
    obtain ⟨t, hstep, hwire, hreceived⟩ := exists_step_rstDuring hframes k n
    exact ⟨t, hstep, hwire.trans (List.append_nil _), hreceived.trans (List.append_nil _)⟩

/-- Settles O15: nothing is listed, logged or emitted after power-on, and neither the lock nor SENT is set. -/
theorem invariantsAtReset : Obligations.InvariantsAtReset :=
  ⟨⟨rfl, rfl⟩, ⟨fun _ => ⟨rfl, rfl⟩, nofun⟩, State.lockOk_of_not_stepped rfl, nofun, nofun, rfl, rfl, rfl⟩

end Sys2Proof.Machine
end

section
/-! What operations may change: the sequencing flags, the DEF flags, OUT_LOG, and the buffers under the lock (R22, R24, R26,
R27, R31, R59). -/

namespace Sys2Proof.Machine

/-- Of what neither a response nor a fault touches, an operation changes what its change does, where it meets no fault. -/
theorem exec_changes {α : Type} {i : Instr} {s t : State} (h : exec i s = .next t) (π : State → α)
    (hrespond : ∀ s code data, π (s.respond code data) = π s) (hfault : ∀ s code w, π (s.enterFault code w) = π s) :
    π t = π s ∨ (faultOf i s = none ∧ π t = π (change i s)) := by
  rcases exec_cases h with ⟨-, -, rfl⟩ | ⟨-, code, -, rfl⟩ | ⟨-, hi, rfl⟩
  · exact .inl (hrespond _ _ _)
  · exact .inl ((hrespond _ _ _).trans (hfault _ _ _))
  · exact .inr ⟨hi, hrespond _ _ _⟩

/-! ### The sequencing flags -/

/-- CUR_PHYS, STEPPED and SENT (R23, R26, R27). -/
def sequencing (s : State) : Buf × Bool × Bool := (s.curPhys, s.stepped, s.sent)

/-- What an operation makes of CUR_PHYS, STEPPED and SENT (R24, R26, R27). -/
theorem sequencing_change (i : Instr) (s : State) : sequencing (change i s) =
    match i with
    | .swap => (s.curPhys.other, false, false)
    | .step => (s.curPhys, true, s.sent)
    | .sendf => (s.curPhys, s.stepped, s.sent || decide (s.xfer.result = .ok))
    | _ => sequencing s := by
  cases i with
  | set | clear | ldseed | step => simp [sequencing, change]
  | get | rdbytes | swap | sendf | sendc | sendinit | rdstat => rfl

/-- Settles O24: only SWAP, STEP and SENDF write one of the three. -/
theorem sequencingFlagsChange : Obligations.SequencingFlagsChange := by
  intro i s t h
  rcases exec_changes h sequencing (fun _ _ _ => rfl) (fun _ _ _ => rfl) with hseq | ⟨-, hseq⟩
  · obtain ⟨hcur, hstepped, hsent⟩ : t.curPhys = s.curPhys ∧ t.stepped = s.stepped ∧ t.sent = s.sent := by
      simpa [sequencing] using hseq
    simp +contextual [hcur, hstepped, hsent]
  · rw [sequencing_change] at hseq
    cases i <;> simp_all [sequencing]

/-! ### The DEF flags -/

/-- CLEAR sets the DEF flag of the buffer it zeroes and LDSEED that of current; no other flag changes (R22). -/
theorem defd_change_iff (i : Instr) (s : State) (p : Buf) : (change i s).defd p = true ↔
    s.defd p = true ∨ (∃ r, i = .clear r ∧ p = s.phys r) ∨ (∃ bs, i = .ldseed bs ∧ p = s.phys .cur) := by
  cases i with
  | clear | ldseed => simp [change, State.defd_setDef, or_comm]
  | get | set | rdbytes | step | swap | sendf | sendc | sendinit | rdstat => simp [change]

/-- Settles O25: a DEF flag is only ever written 1, by CLEAR and LDSEED. -/
theorem defFlagsOnlyRise : Obligations.DefFlagsOnlyRise := by
  intro i s t p h
  rcases exec_changes h (·.defd p) (fun _ _ _ => State.defd_respond _ _ _ _) (fun _ _ _ => State.defd_enterFault _ _ _ _)
    with hdef | ⟨-, hdef⟩
  · exact ⟨hdef.trans, fun hclear hset => absurd (hdef.symm.trans hset) (by simp [hclear])⟩
  · rw [hdef, defd_change_iff]
    exact ⟨.inl, fun hclear hset => hset.resolve_left (by simp [hclear])⟩

/-! ### OUT_LOG -/

/-- Settles O26: an operation that completes emits one frame or none, any other none. -/
theorem outLogOnlyGrows : Obligations.OutLogOnlyGrows := by
  intro i s t h
  rcases exec_changes h State.outLog (fun _ _ _ => rfl) (fun _ _ _ => rfl) with hlog | ⟨-, hlog⟩
  · exact .inl hlog
  · rw [hlog]
    rcases change_emits i s with ⟨hsame, -⟩ | ⟨kind, bytes, hframe, hlog, -⟩
    · exact .inl hsame
    · refine .inr ⟨kind, bytes, hlog, ?_⟩
      rcases hframe with ⟨hkind, hi, -⟩ | ⟨hkind, ⟨hi, -⟩ | ⟨p, hi, -⟩⟩
      · exact .inl ⟨hkind, hi⟩
      · exact .inr ⟨hkind, .inl hi⟩
      · exact .inr ⟨hkind, .inr ⟨p, hi⟩⟩

/-! ### The buffers under the lock -/

/-- A STEP under the lock writes to next the generation that is there: it meets no fault only where that is empty
(R41, R140). -/
theorem fb_change_of_locked {i : Instr} {s : State} (hi : faultOf i s = none) (hlock : s.lockOk) (hs : s.stepped = true)
    (p : Buf) : (change i s).fb p = s.fb p := by
  cases i with
  | set | clear | ldseed => cases hs.symm.trans (not_stepped_of_writes rfl hi)
  | step =>
    obtain ⟨-, -, hnext⟩ := hlock hs
    rw [change, State.fb_markStepped, ← State.phys_nxt, ← State.phys_cur, ← hnext, State.setFb_fb]
  | get | rdbytes | swap | sendf | sendc | sendinit | rdstat => simp [change]

/-- Under the lock an operation of the host that writes a buffer enters the fault state (R26, R211). -/
theorem faulted_of_writes {i : Instr} {s t : State} (h : exec i s = .next t) (hw : writesBuffer i = true)
    (hs : s.stepped = true) (hrun : s.faulted = false) : t.faulted = true := by
  by_contra ht
  obtain ⟨hi, -⟩ := completed_of_exec h hrun (Bool.eq_false_of_not_eq_true ht)
  cases hs.symm.trans (not_stepped_of_writes hw hi)

/-- Settles O29: no operation changes a buffer under the lock, and the three writers fault. -/
theorem lockedBuffersUnchanged : Obligations.LockedBuffersUnchanged := by
  intro i s t hlock hs hrun h
  have hfb (p : Buf) : t.fb p = s.fb p := by
    rcases exec_changes h (·.fb p) (fun _ _ _ => State.fb_respond _ _ _ _) (fun _ _ _ => State.fb_enterFault _ _ _ _)
      with hsame | ⟨hi, hchange⟩
    · exact hsame
    · exact hchange.trans (fb_change_of_locked hi hlock hs p)
  refine ⟨hfb .b0, hfb .b1, ?_⟩
  rintro (⟨r, x, y, rfl⟩ | ⟨r, rfl⟩ | ⟨bs, rfl⟩) <;> exact faulted_of_writes h rfl hs hrun

end Sys2Proof.Machine
end

section
/-! What the framebuffer operations leave where they complete (R100 to R106). -/

namespace Sys2Proof.Machine

/-- The state an operation leaves, its response written out (R74). -/
theorem effect_eq (i : Instr) (s : State) :
    effect i s = { change i s with responses := s.responses ++ [⟨answerCode i s, answerData i s⟩] } := by
  rw [← effect_responses]
  rfl

/-- Outside the fault state an operation to which no fault applies makes its change and gives one response. -/
theorem exec_completes {i : Instr} {s : State} (hrun : s.faulted = false) (hi : faultOf i s = none) :
    exec i s = .next { change i s with responses := s.responses ++ [⟨answerCode i s, answerData i s⟩] } := by
  rw [exec_effect hrun hi, effect_eq]

/-! ### GET -/

/-- A bit by shift and mask (R50). -/
theorem ofBool_getLsbD {n : Nat} (b : BitVec n) (k : Nat) :
    BitVec.ofBool (b.getLsbD k) = BitVec.ofNat 1 (b.toNat >>> k &&& 1) := by
  apply BitVec.eq_of_toNat_eq
  rw [BitVec.toNat_ofBool, BitVec.toNat_ofNat, Nat.and_one_is_mod, Nat.shiftRight_eq_div_pow, BitVec.getLsbD,
    Nat.testBit_eq_decide_div_mod_eq]
  rcases Nat.mod_two_eq_zero_or_one (b.toNat / 2 ^ k) with h | h <;> rw [h] <;> rfl

/-- The byte and the bit of a row, by shift and mask (R50). -/
theorem shift_and_mask (y : Nat) : y >>> 3 = y / 8 ∧ y &&& 7 = y % 8 :=
  ⟨Nat.shiftRight_eq_div_pow y 3, Nat.and_two_pow_sub_one_eq_mod y 3⟩

/-- The cell of the torus as the bit that R50 computes. -/
theorem ofBool_torusCell (m : Memory) (x y : Int) :
    BitVec.ofBool (torusCell m x y) =
      BitVec.ofNat 1 ((m.read (((y % 64).toNat >>> 3) * 128 + (x % 128).toNat)).toNat >>> ((y % 64).toNat &&& 7) &&& 1) := by
  obtain ⟨hbyte, hbit⟩ := shift_and_mask (y % 64).toNat
  rw [torusCell, ofBool_getLsbD, hbyte, hbit]

/-- Settles O30: no fault applies, and in its range GET answers the cell of the torus. -/
theorem getReadsWrappedCell : Obligations.GetReadsWrappedCell := by
  intro r x y s hrun hx0 hx1 hy0 hy1 hdef
  have hin : inGetRange (coordX x) (coordY y) = true := (inGetRange_iff _ _).mpr ⟨hx0, hx1, hy0, hy1⟩
  rw [exec_completes hrun (faultOf_get_eq_none hin hdef), answerData_get hin, ofBool_torusCell]
  rfl

/-! ### SET -/

/-- Settles O32: no fault applies, and SET writes the one byte that holds its cell. -/
theorem setWritesOneBit : Obligations.SetWritesOneBit := by
  intro r x y s hrun hunlocked hx0 hx1 hy0 hy1 hwf
  have hin : inSetRange (coordX x) (coordY y) = true := (inSetRange_iff _ _).mpr ⟨hx0, hx1, hy0, hy1⟩
  refine ⟨_, exec_completes hrun (faultOf_set_eq_none hin hunlocked), fun a => ?_⟩
  obtain ⟨hbyte, hbit⟩ := shift_and_mask y.toInt.toNat
  rw [read_setCell (hwf.fb _), hbyte, hbit]
  rfl

/-! ### CLEAR -/

/-- Settles O34: the buffer CLEAR leaves lists no byte. -/
theorem clearZeroesBuffer : Obligations.ClearZeroesBuffer := by
  intro r s hrun hunlocked
  have hi : faultOf (.clear r) s = none := by simp [faultOf, hunlocked]
  exact ⟨[], exec_completes hrun hi, Memory.read_nil⟩

/-! ### RDBYTES and LDSEED -/

/-- No fault applies to RDBYTES of a defined buffer (R105, R211). -/
theorem exec_rdbytes {r : Role} {s : State} (hrun : s.faulted = false) (hdef : s.defd (s.phys r) = true) :
    exec (.rdbytes r) s =
      .next { s with responses := s.responses ++ [⟨.ok, .bytes (s.fb (s.phys r)).toBytes⟩] } :=
  exec_completes hrun (by simp [faultOf, hdef])

/-- Settles O35: the answer is the whole-buffer read. -/
theorem rdbytesReturnsBuffer : Obligations.RdbytesReturnsBuffer :=
  fun _ _ hrun hdef => ⟨_, exec_rdbytes hrun hdef, Memory.length_toBytes _, fun _ hk => Memory.getElem?_toBytes _ hk⟩

/-- No fault applies to LDSEED of a whole seed outside the lock (R106, R211). -/
theorem faultOf_ldseed_eq_none {p : List Byte} {s : State} (hlen : p.length = FB_BYTES) (hunlocked : s.stepped = false) :
    faultOf (.ldseed p) s = none := by
  simp [faultOf, hlen, hunlocked]

/-- Settles O36: LDSEED is a whole-buffer write of current. -/
theorem ldseedLoadsCurrent : Obligations.LdseedLoadsCurrent := by
  intro p s hrun hunlocked hlen
  refine ⟨Memory.ofBytes p, exec_completes hrun (faultOf_ldseed_eq_none hlen hunlocked), fun k hk => ?_⟩
  have hkp : k < p.length := hlen.symm ▸ hk
  rw [Memory.read_ofBytes, List.getD_eq_getElem _ _ hkp, List.getElem?_eq_getElem hkp]

/-- Settles O37: LDSEED leaves current defined, and a whole-buffer read gives back what a whole-buffer write put there. -/
theorem seedReadsBack : Obligations.SeedReadsBack := by
  intro p s hrun hunlocked hlen
  have hdef : (effect (.ldseed p) s).defd ((effect (.ldseed p) s).phys .cur) = true := by simp [effect, change]
  have hcur : (effect (.ldseed p) s).fb ((effect (.ldseed p) s).phys .cur) = Memory.ofBytes p := by simp [effect, change]
  rw [execAll_cons_effect hrun (faultOf_ldseed_eq_none hlen hunlocked), execAll,
    exec_rdbytes ((effect_faulted _ s).trans hrun) hdef, hcur, Memory.toBytes_ofBytes hlen, effect_responses]
  exact ⟨_, rfl, List.append_assoc _ _ _⟩

end Sys2Proof.Machine
end

section
/-! The Life engine: what STEP leaves (R140), moves on the torus (R143), and the column-parallel engine (R144). -/

namespace Sys2Proof.Machine

/-! ### STEP -/

/-- No fault applies to STEP where current is defined and next is defined and all zero (R140, R211). -/
theorem faultOf_step_eq_none {s : State} (hcur : s.defd (s.phys .cur) = true) (hnxt : s.defd (s.phys .nxt) = true)
    (hzero : ∀ a, a < 1024 → (s.fb (s.phys .nxt)).read a = 0x00#8) : faultOf .step s = none := by
  have hclear : s.nxtZero = true := s.nxtZero_iff.mpr ⟨hnxt, hzero⟩
  rw [State.phys_cur] at hcur
  simp [faultOf, hcur, hclear]

/-- Settles O38: no fault applies, and STEP leaves Life of current in next. -/
theorem stepComputesNextGeneration : Obligations.StepComputesNextGeneration := by
  intro s hrun hcur hnxt hzero
  exact ⟨_, exec_completes hrun (faultOf_step_eq_none hcur hnxt hzero), torusCell_life _⟩

/-! ### Moves on the torus -/

/-- The neighbour count moves with the pattern (R141). -/
theorem torusCount_move {m n : Memory} {a b : Int} (h : ∀ x y, torusCell n x y = torusCell m (x - a) (y - b)) (x y : Int) :
    torusCount n x y = torusCount m (x - a) (y - b) := by
  simp only [torusCount, h, sub_add_eq_add_sub]

/-- Settles O41: the cell and the neighbour count that decide the next generation move with the pattern. -/
theorem lifeCommutesWithMoves : Obligations.LifeCommutesWithMoves := by
  intro m n a b h x y
  rw [torusCell_life, torusCell_life, torusCount_move h, h]

/-! ### The cells of a column -/

/-- Bit b of a column's byte is the cell in row b of its page (R51). -/
theorem getLsbD_columnByte (m : Memory) (x p : Int) {b : Nat} (hb : b < 8) :
    (columnByte m x p).getLsbD b = torusCell m x (8 * p + b) := by
  have hbyte : ((8 * p + b) % 64).toNat / 8 = (p % 8).toNat := by omega
  have hbit : ((8 * p + b) % 64).toNat % 8 = b := by omega
  rw [columnByte, torusCell, hbyte, hbit]

theorem getLsbD_cellsAbove (m : Memory) (x p : Int) {b : Nat} (hb : b < 8) :
    (cellsAbove m x p).getLsbD b = torusCell m x (8 * p + b + -1) := by
  rw [cellsAbove, BitVec.getLsbD_or, BitVec.getLsbD_shiftLeft, BitVec.getLsbD_ushiftRight]
  cases b with
  | zero =>
    have hrow : 8 * (p - 1) + ((7 + 0 : Nat) : Int) = 8 * p + (0 : Nat) + -1 := by omega
    rw [getLsbD_columnByte m x (p - 1) (by decide), hrow]
    simp
  | succ b =>
    have hrow : 8 * p + (b : Int) = 8 * p + (b + 1 : Nat) + -1 := by omega
    rw [BitVec.getLsbD_of_ge _ (7 + (b + 1)) (by omega), Nat.add_sub_cancel, getLsbD_columnByte m x p (by omega), hrow]
    simp [hb]

theorem getLsbD_cellsBelow (m : Memory) (x p : Int) {b : Nat} (hb : b < 8) :
    (cellsBelow m x p).getLsbD b = torusCell m x (8 * p + b + 1) := by
  rw [cellsBelow, BitVec.getLsbD_or, BitVec.getLsbD_shiftLeft, BitVec.getLsbD_ushiftRight]
  by_cases hlast : b = 7
  · subst hlast
    have hrow : 8 * (p + 1) + ((7 - 7 : Nat) : Int) = 8 * p + (7 : Nat) + 1 := by omega
    rw [getLsbD_columnByte m x (p + 1) (by decide), BitVec.getLsbD_of_ge _ (1 + 7) (by decide), hrow]
    simp
  · have hrow : 8 * p + ((1 + b : Nat) : Int) = 8 * p + b + 1 := by omega
    rw [getLsbD_columnByte m x p (by omega), hrow]
    simp [show b < 7 by omega]

/-! ### Eight counters at once -/

/-- The number that counter b holds. -/
def Counters.value (c : Counters) (b : Nat) : Nat :=
  (c.ones.getLsbD b).toNat + 2 * (c.twos.getLsbD b).toNat + 4 * (c.fours.getLsbD b).toNat

theorem Counters.value_add (c : Counters) (a : Byte) (b : Nat) :
    (c.add a).value b = (c.value b + (a.getLsbD b).toNat) % 8 := by
  simp only [Counters.value, Counters.add, BitVec.getLsbD_xor, BitVec.getLsbD_and]
  cases c.ones.getLsbD b <;> cases c.twos.getLsbD b <;> cases c.fours.getLsbD b <;> cases a.getLsbD b <;> rfl

theorem Counters.value_lt (c : Counters) (b : Nat) : c.value b < 8 := by
  have h1 := Bool.toNat_le (c.ones.getLsbD b)
  have h2 := Bool.toNat_le (c.twos.getLsbD b)
  have h3 := Bool.toNat_le (c.fours.getLsbD b)
  rw [Counters.value]
  omega

/-- Counter b counts modulo 8 the columns that have cell b. -/
theorem Counters.value_foldl_add (l : List Byte) (c : Counters) (b : Nat) :
    (l.foldl Counters.add c).value b = (c.value b + (l.map fun a => (a.getLsbD b).toNat).sum) % 8 := by
  induction l generalizing c with
  | nil => exact (Nat.mod_eq_of_lt (c.value_lt b)).symm
  | cons a l ih =>
    rw [List.foldl_cons, ih, Counters.value_add, Nat.mod_add_mod, List.map_cons, List.sum_cons, Nat.add_assoc]

/-- The neighbour count as a sum over the eight displacements (R141). -/
theorem torusCount_eq_sum (m : Memory) (x y : Int) :
    torusCount m x y = (neighbours.map fun d => (torusCell m (x + d.1) (y + d.2)).toNat).sum := by
  have hx : (x % 128).toNat < W := by simp only [W]; omega
  have hy : (y % 64).toNat < H := by simp only [H]; omega
  rw [torusCount_congr m (x' := (x % 128).toNat) (y' := (y % 64).toNat) (by omega) (by omega),
    ← count_eq_torusCount m hx hy, count]
  refine congrArg List.sum (List.map_congr_left fun d hd => congrArg Bool.toNat ?_)
  obtain ⟨hdx, hdy⟩ := neighbours_near hd
  rw [wrappedCell_eq_torusCell m (by omega) (by omega)]
  exact torusCell_congr m (by omega) (by omega)

/-- Counter b of a column counts the neighbours of its cell b modulo 8. -/
theorem value_columnCounters (m : Memory) (x p : Int) {b : Nat} (hb : b < 8) :
    (columnCounters m x p).value b = torusCount m x (8 * p + b) % 8 := by
  rw [columnCounters, Counters.value_foldl_add, torusCount_eq_sum]
  simp only [List.map_cons, List.map_nil, neighbours, getLsbD_cellsAbove m _ p hb, getLsbD_cellsBelow m _ p hb,
    getLsbD_columnByte m _ p hb]
  simp [Counters.value, sub_eq_add_neg]

/-- No cell has more than eight neighbours. -/
theorem torusCount_le (m : Memory) (x y : Int) : torusCount m x y ≤ 8 := by
  rw [torusCount_eq_sum]
  refine (List.sum_le_card_nsmul _ 1 fun k hk => ?_).trans_eq (by simp [neighbours])
  obtain ⟨d, -, rfl⟩ := List.mem_map.mp hk
  exact Bool.toNat_le _

/-- The adders decide a cell by the rule: a count of 8, which reads as 0, leaves it dead as well (R142, R144). -/
theorem adders_decide_rule : ∀ n < 9, ∀ ones twos fours alive : Bool,
    ones.toNat + 2 * twos.toNat + 4 * fours.toNat = n % 8 →
      (!fours && twos && (ones || alive)) = decide (n = 3 ∨ (alive = true ∧ n = 2)) := by
  decide

/-- Bit b of a column's next generation is the cell of Life in row b of its page (R143). -/
theorem getLsbD_nextColumn (m : Memory) (x p : Int) {b : Nat} (hb : b < 8) :
    (nextColumn m x p).getLsbD b = torusCell (life m) x (8 * p + b) := by
  have hrule := adders_decide_rule _ (Nat.lt_succ_of_le (torusCount_le m x (8 * p + b))) _ _ _
    (torusCell m x (8 * p + b)) (value_columnCounters m x p hb)
  rw [torusCell_life, ← hrule, ← getLsbD_columnByte m x p hb]
  simp [nextColumn, hb]

/-- Byte i of the generation computed by columns is byte i of Life (R143, R144). -/
theorem nextColumn_eq_read_life (m : Memory) {i : Nat} (hi : i < FB_BYTES) :
    nextColumn m (i % 128 : Nat) (i / 128 : Nat) = (life m).read i := by
  apply BitVec.eq_of_getLsbD_eq
  intro b hb
  obtain ⟨hx, hy, hbyte, hbit⟩ := layout_surjective hi hb
  calc (nextColumn m (i % 128 : Nat) (i / 128 : Nat)).getLsbD b
      = torusCell (life m) (i % W : Nat) (8 * (i / W) + b : Nat) := getLsbD_nextColumn m _ _ hb
    _ = cell (life m) (i % W) (8 * (i / W) + b) := torusCell_of_range _ hx hy
    _ = ((life m).read i).getLsbD b := by rw [cell, hbyte, hbit]

/-- Settles O40: each byte of the generation computed by columns is that of Life. -/
theorem parallelLifeEqualsLife : Obligations.ParallelLifeEqualsLife := by
  intro m
  refine Memory.ext_of_wf_lt (Memory.wf_ofBytes (by simp [FB_BYTES])) (wf_life m) fun i hi => ?_
  rw [← nextColumn_eq_read_life m hi, parallelLife, Memory.read_ofBytes]
  simp [show i < 1024 from hi]

end Sys2Proof.Machine
end

section
/-! SWAP (R150 to R154), and the two physical buffers behind the roles (R40). -/

namespace Sys2Proof.Machine

/-! ### SWAP -/

/-- No fault applies to SWAP exactly where it is allowed (R151, R211). -/
theorem faultOf_swap_eq_none_iff {s : State} :
    faultOf .swap s = none ↔ s.stepped = true ∧ (s.sent = true ∨ s.cfg.swapNeedsSend = false) := by
  rw [← State.swapAllowed_iff, faultOf]
  cases s.swapAllowed <;> decide

/-- Settles O42: no fault applies, and SWAP writes CUR_PHYS, STEPPED and SENT. -/
theorem swapExchangesRoles : Obligations.SwapExchangesRoles := by
  intro s hrun hstepped hsent
  refine ⟨_, exec_effect hrun (faultOf_swap_eq_none_iff.mpr ⟨hstepped, hsent⟩), effect_eq _ s, ?_⟩
  simp [effect, change]

/-- NEXT_NOT_CLEAR is the fault of a STEP with current defined exactly where next is undefined or not all zero (R140,
R211). -/
theorem faultOf_step_eq_nextNotClear_iff {s : State} (hcur : s.defd (s.phys .cur) = true) :
    faultOf .step s = some .nextNotClear ↔ s.nxtZero = false := by
  rw [State.phys_cur] at hcur
  simp [faultOf, hcur]

/-- Settles O43: after the SWAP next is what current was, and the lock has both buffers defined. -/
theorem stepAfterSwapNeedsClear : Obligations.StepAfterSwapNeedsClear := by
  intro s t hrun hlock h ht
  obtain ⟨hi, rfl⟩ := completed_of_exec h hrun ht
  obtain ⟨hstepped, -⟩ := faultOf_swap_eq_none_iff.mp hi
  obtain ⟨hcur, hnxt, -⟩ := hlock hstepped
  have hcur' : (effect .swap s).defd ((effect .swap s).phys .cur) = true := by simpa [effect, change] using hnxt
  have hzero : (effect .swap s).nxtZero = allZero (s.fb (s.phys .cur)) := by
    rw [State.phys_cur] at hcur
    simp [State.nxtZero, effect, change, hcur]
  calc exec .step (effect .swap s) = .next (faultState (effect .swap s) .nextNotClear 0x60000000#32)
      ↔ (effect .swap s).nxtZero = false :=
        (exec_eq_faultState_iff ht .nextNotClear).trans (faultOf_step_eq_nextNotClear_iff hcur')
    _ ↔ ¬ ∀ a, a < FB_BYTES → (s.fb (s.phys .cur)).read a = 0#8 := by
        rw [hzero, ← Bool.not_eq_true, allZero_iff]
    _ ↔ ∃ a, a < 1024 ∧ (s.fb (s.phys .cur)).read a ≠ 0x00#8 := by
        simp only [not_forall, exists_prop, FB_BYTES, ne_eq]

/-! ### The physical buffers exchanged -/

namespace State

variable (s : State)

@[simp] theorem fb_renamed (p : Buf) : s.renamed.fb p = s.fb p.other := by cases p <;> rfl

@[simp] theorem defd_renamed (p : Buf) : s.renamed.defd p = s.defd p.other := by cases p <;> rfl

@[simp] theorem curPhys_renamed : s.renamed.curPhys = s.curPhys.other := rfl

@[simp] theorem phys_renamed (r : Role) : s.renamed.phys r = (s.phys r).other := by cases r <;> rfl

@[simp] theorem nxtZero_renamed : s.renamed.nxtZero = s.nxtZero := by simp [State.nxtZero]

theorem setFb_renamed (p : Buf) (m : Memory) : s.renamed.setFb p.other m = (s.setFb p m).renamed := by cases p <;> rfl

theorem setDef_renamed (p : Buf) : s.renamed.setDef p.other = (s.setDef p).renamed := by cases p <;> rfl

end State

/-- The faults of an operation are those of the roles' buffers (R211). -/
theorem faultOf_renamed (i : Instr) (s : State) : faultOf i s.renamed = faultOf i s := by
  cases i with
  | get | rdbytes | step | sendf => simp [faultOf]
  | set | clear | ldseed | swap | sendc | sendinit | rdstat => rfl

/-- An operation writes the buffers of roles, and a role keeps its contents (R40). -/
theorem change_renamed (i : Instr) (s : State) : change i s.renamed = (change i s).renamed := by
  cases i with
  | set => simp [change, State.setFb_renamed]
  | clear | ldseed => simp [change, State.setFb_renamed, State.setDef_renamed]
  | step =>
    rw [change, State.curPhys_renamed, State.setFb_renamed, State.fb_renamed, Buf.other_other]
    rfl
  | sendf =>
    rw [change, State.curPhys_renamed, State.fb_renamed, Buf.other_other]
    rfl
  | get | rdbytes | swap | sendc | sendinit | rdstat => rfl

/-- Only RDSTAT of STATUS shows CUR_PHYS and the DEF flags (R36, R40). -/
theorem answerData_renamed {i : Instr} (hi : i ≠ .rdstat .status) (s : State) :
    answerData i s.renamed = answerData i s := by
  cases i with
  | get r | rdbytes r => simp [answerData]
  | rdstat sel =>
    cases sel with
    | status => exact absurd rfl hi
    | fault => rfl
  | set | clear | ldseed | step | swap | sendf | sendc | sendinit => rfl

/-- Settles O45: its fault, its change and its response are the same. -/
theorem rolesHidePhysicalBuffers : Obligations.RolesHidePhysicalBuffers := by
  intro i s t hi h
  have heffect : effect i s.renamed = (effect i s).renamed := by
    rw [effect, change_renamed, answerData_renamed hi, answerCode_eq, effect, answerCode_eq]
    rfl
  have hfaulted : s.renamed.faulted = s.faulted := rfl
  rw [exec_eq] at h ⊢
  rw [faultOf_renamed, heffect, hfaulted]
  split_ifs at h ⊢
  · cases h
    rfl
  · cases hf : faultOf i s with
    | some code => rw [hf] at h; cases h; rfl
    | none => rw [hf] at h; cases h; rfl

/-! ### SWAP ; CLEAR nxt -/

/-- Settles O44: SWAP and CLEAR complete, and both DEF flags stay 1; the buffer that was next is current with its contents,
and the other is empty. -/
theorem swapClearIsCopyClear : Obligations.SwapClearIsCopyClear := by
  intro s hrun hstepped hsent hcur hnxt
  have hcleared : Memory.ofBytes (List.replicate 1024 0x00#8) = [] := Memory.ofBytes_zero
  rw [execAll_swap_clear hrun (s.swapAllowed_iff.mpr ⟨hstepped, hsent⟩), hcleared, effect_eq, effect_responses,
    List.append_assoc]
  refine congrArg Host.Outcome.next ?_
  rcases s with ⟨fb0, fb1, def0, def1, cur⟩
  cases cur with
  | b0 =>
    obtain rfl : def0 = true := hcur
    obtain rfl : def1 = true := hnxt
    rfl
  | b1 =>
    obtain rfl : def1 = true := hcur
    obtain rfl : def0 = true := hnxt
    rfl

end Sys2Proof.Machine
end

section
/-! The frames of SENDINIT and SENDF (R152, R182), and the registers RDSTAT reads (R36, R37, R200). -/

namespace Sys2Proof.Machine

/-! ### SENDINIT -/

/-- What SENDINIT leaves (R182). -/
theorem effect_sendinit (s : State) :
    effect .sendinit s =
      frameState s .cmd (cmdFrame INIT_SEQ) (s.xfer.delivered (cmdFrame INIT_SEQ)) s.xfer.result.response :=
  respond_emit s _ _ _

/-- Settles O51: no fault applies to SENDINIT, and the frame it emits is the command frame of INIT_SEQ. -/
theorem sendinitEmitsInitFrame : Obligations.SendinitEmitsInitFrame := by
  intro s hrun
  refine ⟨cmdFrame INIT_SEQ, _, _, ?_, cmdFrame_INIT_SEQ, partOfFrame_delivered _ _, Xfer.byte_response _⟩
  rw [exec_effect hrun rfl, effect_sendinit]

/-! ### SENDF around a STEP -/

/-- The frame SENDF emits where it meets no fault (R171). -/
def dataRecord (s : State) : FrameRecord := ⟨.data, dataFrame (s.fb s.curPhys), s.xfer.result⟩

theorem outLog_effect_sendf (s : State) : (effect .sendf s).outLog = s.outLog ++ [dataRecord s] := rfl

/-- STEP changes neither current nor the transport's answer (R140). -/
theorem dataRecord_effect_step (s : State) : dataRecord (effect .step s) = dataRecord s := by
  simp [dataRecord, effect, change]

/-- Settles O52: after the STEP no fault applies to SENDF either, and it emits the frame of the same buffer. -/
theorem sameFrameAroundStep : Obligations.SameFrameAroundStep := by
  intro s t u v hrun hsendf hu hstep ht hsendf'
  obtain ⟨hi, rfl⟩ := completed_of_exec hsendf hrun hu
  obtain ⟨-, rfl⟩ := completed_of_exec hstep hrun ht
  have hi' : faultOf .sendf (effect .step s) = none := by
    simpa [faultOf, effect, change] using hi
  rw [exec_effect ht hi'] at hsendf'
  cases hsendf'
  exact ⟨dataRecord s, outLog_effect_sendf s, by rw [outLog_effect_sendf, dataRecord_effect_step]⟩

/-! ### RDSTAT -/

theorem FaultCode.code_eq (c : FaultCode) : c.code = faultNumber c := by cases c <;> rfl

theorem Xfer.code_eq (x : Xfer) : x.code = xferNumber x := by cases x <;> rfl

theorem Buf.getLsbD_bit (p : Buf) : p.bit.getLsbD 0 = true ↔ p = .b1 := by cases p <;> decide

/-- FAULT_CODE is bits 11..8 of the status word (R36). -/
theorem State.extractLsb'_status_faultCode (s : State) : s.status.extractLsb' 8 4 = faultNumber s.faultCode := by
  apply BitVec.eq_of_getLsbD_eq
  intro k hk
  have hbit : s.status.getLsbD (8 + k) = s.faultCode.code.getLsbD k := by
    interval_cases k <;> exact s.getLsbD_status _
  rw [BitVec.getLsbD_extractLsb', hbit, FaultCode.code_eq, decide_eq_true hk, Bool.true_and]

/-- LAST_XFER is bits 13..12 of the status word (R36). -/
theorem State.extractLsb'_status_lastXfer (s : State) : s.status.extractLsb' 12 2 = xferNumber s.lastXfer := by
  apply BitVec.eq_of_getLsbD_eq
  intro k hk
  have hbit : s.status.getLsbD (12 + k) = s.lastXfer.code.getLsbD k := by
    interval_cases k <;> exact s.getLsbD_status _
  rw [BitVec.getLsbD_extractLsb', hbit, Xfer.code_eq, decide_eq_true hk, Bool.true_and]

/-- Settles O53: the word RDSTAT answers is the status word, whose bits are the fields of R36, or the fault word. -/
theorem rdstatReadsRegisters : Obligations.RdstatReadsRegisters := by
  intro s
  refine ⟨⟨s.status, rfl, ?_, s.getLsbD_status 1, s.getLsbD_status 2, ?_, s.getLsbD_status 4, s.getLsbD_status 5,
    s.getLsbD_status 6, s.getLsbD_status 7, s.extractLsb'_status_faultCode, s.extractLsb'_status_lastXfer,
    fun k hk => ?_⟩, rfl⟩
  · rw [s.getLsbD_status 0]
    exact Buf.getLsbD_bit s.curPhys
  · rw [s.getLsbD_status 3]
    exact s.nxtZero_iff
  · rw [s.getLsbD_status k]
    repeat rw [if_neg (by omega)]

end Sys2Proof.Machine
end

section
/-! The bytes of undefined buffers: no part of a step lets them reach anything but bytes of undefined buffers (R22, R38,
R40). -/

namespace Sys2Proof.Machine

/-- How the steps of two states that differ only in the bytes of undefined buffers end. -/
def endAlike : Result → Result → Prop
  | .next t, .next t' => t.sameDefined t'
  | .fault f, .fault f' => f = f'
  | .refused r, .refused r' => r = r'
  | _, _ => False

namespace State.sameDefined

variable {s s' : State}

protected theorem refl (s : State) : s.sameDefined s := ⟨⟨s.fb0, s.fb1, rfl⟩, fun _ => rfl, fun _ => rfl⟩

/-! ### What the two states have in common -/

/-- Whatever does not read the bytes of the buffers is the same. -/
theorem eq_of_ignores_bytes (h : s.sameDefined s') {α : Type} (π : State → α)
    (hπ : ∀ m0 m1, π { s with fb0 := m0, fb1 := m1 } = π s) : π s' = π s := by
  obtain ⟨⟨m0, m1, rfl⟩, -, -⟩ := h
  exact hπ m0 m1

theorem faulted (h : s.sameDefined s') : s'.faulted = s.faulted := h.eq_of_ignores_bytes _ fun _ _ => rfl
theorem stepped (h : s.sameDefined s') : s'.stepped = s.stepped := h.eq_of_ignores_bytes _ fun _ _ => rfl
theorem curPhys (h : s.sameDefined s') : s'.curPhys = s.curPhys := h.eq_of_ignores_bytes _ fun _ _ => rfl
theorem def0 (h : s.sameDefined s') : s'.def0 = s.def0 := h.eq_of_ignores_bytes _ fun _ _ => rfl
theorem def1 (h : s.sameDefined s') : s'.def1 = s.def1 := h.eq_of_ignores_bytes _ fun _ _ => rfl
theorem sent (h : s.sameDefined s') : s'.sent = s.sent := h.eq_of_ignores_bytes _ fun _ _ => rfl
theorem faultCode (h : s.sameDefined s') : s'.faultCode = s.faultCode := h.eq_of_ignores_bytes _ fun _ _ => rfl
theorem faultWord (h : s.sameDefined s') : s'.faultWord = s.faultWord := h.eq_of_ignores_bytes _ fun _ _ => rfl
theorem lastXfer (h : s.sameDefined s') : s'.lastXfer = s.lastXfer := h.eq_of_ignores_bytes _ fun _ _ => rfl
theorem xfer (h : s.sameDefined s') : s'.xfer = s.xfer := h.eq_of_ignores_bytes _ fun _ _ => rfl
theorem outLog (h : s.sameDefined s') : s'.outLog = s.outLog := h.eq_of_ignores_bytes _ fun _ _ => rfl
theorem received (h : s.sameDefined s') : s'.received = s.received := h.eq_of_ignores_bytes _ fun _ _ => rfl
theorem inputs (h : s.sameDefined s') : s'.inputs = s.inputs := h.eq_of_ignores_bytes _ fun _ _ => rfl
theorem swapAllowed (h : s.sameDefined s') : s'.swapAllowed = s.swapAllowed := h.eq_of_ignores_bytes _ fun _ _ => rfl
theorem phys (h : s.sameDefined s') (r : Role) : s'.phys r = s.phys r := State.phys_congr h.curPhys r

theorem defd (h : s.sameDefined s') (p : Buf) : s'.defd p = s.defd p := State.defd_congr h.def0 h.def1 p

/-- The bytes of a defined buffer are the same. -/
theorem fb (h : s.sameDefined s') {p : Buf} (hp : s.defd p = true) : s'.fb p = s.fb p := by
  obtain ⟨-, h0, h1⟩ := h
  cases p
  · exact h0 hp
  · exact h1 hp

/-- NXT_ZERO reads the bytes of next only where next is defined (R28). -/
theorem nxtZero (h : s.sameDefined s') : s'.nxtZero = s.nxtZero := by
  rw [State.nxtZero, State.nxtZero, h.phys, h.defd]
  cases hp : s.defd (s.phys .nxt) with
  | false => rw [Bool.false_and, Bool.false_and]
  | true => rw [h.fb hp]

/-- The status word shows of the bytes only NXT_ZERO (R36). -/
theorem control (h : s.sameDefined s') (sel : StatSel) : s'.control sel = s.control sel := by
  cases sel with
  | status =>
    simp only [State.control, State.status, h.lastXfer, h.faultCode, h.faulted, h.sent, h.stepped, h.nxtZero, h.def1,
      h.def0, h.curPhys]
  | fault => exact h.faultWord

/-! ### What keeps the relation -/

/-- An update of the other fields that does not read the bytes keeps it. -/
theorem map (h : s.sameDefined s') (f : State → State)
    (hf : ∀ m0 m1, f { s with fb0 := m0, fb1 := m1 } = { f s with fb0 := m0, fb1 := m1 })
    (hsame : (f s).fb0 = s.fb0 ∧ (f s).fb1 = s.fb1 ∧ (f s).def0 = s.def0 ∧ (f s).def1 = s.def1) :
    (f s).sameDefined (f s') := by
  obtain ⟨⟨m0, m1, rfl⟩, h0, h1⟩ := h
  obtain ⟨hfb0, hfb1, hdef0, hdef1⟩ := hsame
  refine ⟨⟨m0, m1, hf m0 m1⟩, fun hp => ?_, fun hp => ?_⟩
  · rw [hfb0, ← h0 (hdef0 ▸ hp)]
    have := congrArg State.fb0 (hf m0 m1)
    exact this
  · rw [hfb1, ← h1 (hdef1 ▸ hp)]
    have := congrArg State.fb1 (hf m0 m1)
    exact this

theorem takeCommand (h : s.sameDefined s') (c : Command) (rest : List Input) :
    (s.takeCommand c rest).sameDefined (s'.takeCommand c rest) :=
  h.map (·.takeCommand c rest) (fun _ _ => rfl) ⟨rfl, rfl, rfl, rfl⟩

theorem respond (h : s.sameDefined s') (code : RespCode) (data : RespData) :
    (s.respond code data).sameDefined (s'.respond code data) :=
  h.map (·.respond code data) (fun _ _ => rfl) ⟨rfl, rfl, rfl, rfl⟩

theorem enterFault (h : s.sameDefined s') (code : FaultCode) (w : Word) :
    (s.enterFault code w).sameDefined (s'.enterFault code w) :=
  h.map (·.enterFault code w) (fun _ _ => rfl) ⟨rfl, rfl, rfl, rfl⟩

theorem emit (h : s.sameDefined s') (kind : FrameKind) (bytes : List Byte) :
    (s.emit kind bytes).sameDefined (s'.emit kind bytes) :=
  h.map (·.emit kind bytes) (fun _ _ => rfl) ⟨rfl, rfl, rfl, rfl⟩

theorem markSent (h : s.sameDefined s') : s.markSent.sameDefined s'.markSent :=
  h.map State.markSent (fun _ _ => rfl) ⟨rfl, rfl, rfl, rfl⟩

theorem markStepped (h : s.sameDefined s') : s.markStepped.sameDefined s'.markStepped :=
  h.map State.markStepped (fun _ _ => rfl) ⟨rfl, rfl, rfl, rfl⟩

theorem exchange (h : s.sameDefined s') : s.exchange.sameDefined s'.exchange :=
  h.map State.exchange (fun _ _ => rfl) ⟨rfl, rfl, rfl, rfl⟩

/-- A write to a buffer keeps it where the bytes written are the same, or the buffer stays undefined. -/
theorem setFb (h : s.sameDefined s') (p : Buf) {m m' : Memory} (hm : s.defd p = true → m' = m) :
    (s.setFb p m).sameDefined (s'.setFb p m') := by
  obtain ⟨⟨m0, m1, rfl⟩, h0, h1⟩ := h
  cases p
  · exact ⟨⟨m', m1, rfl⟩, hm, h1⟩
  · exact ⟨⟨m0, m', rfl⟩, h0, hm⟩

/-- A buffer with the same bytes may become defined. -/
theorem setDef (h : s.sameDefined s') {p : Buf} (hp : s'.fb p = s.fb p) : (s.setDef p).sameDefined (s'.setDef p) := by
  obtain ⟨⟨m0, m1, rfl⟩, h0, h1⟩ := h
  cases p
  · exact ⟨⟨m0, m1, rfl⟩, fun _ => hp, h1⟩
  · exact ⟨⟨m0, m1, rfl⟩, h0, fun _ => hp⟩

/-- A buffer written as a whole becomes defined (R22). -/
theorem load (h : s.sameDefined s') (p : Buf) (m : Memory) :
    ((s.setFb p m).setDef p).sameDefined ((s'.setFb p m).setDef p) :=
  (h.setFb p fun _ => rfl).setDef (by rw [State.fb_setFb_same, State.fb_setFb_same])

/-! ### Operations -/

/-- No fault depends on the bytes of an undefined buffer (R211). -/
theorem faultOf (h : s.sameDefined s') (i : Instr) : faultOf i s' = faultOf i s := by
  cases i <;> simp only [Machine.faultOf, h.phys, h.defd, h.curPhys, h.stepped, h.nxtZero, h.swapAllowed]

/-- An operation that meets no fault writes the same, but for a SET on an undefined buffer, which stays undefined (R102). -/
theorem change (h : s.sameDefined s') {i : Instr} (hi : Machine.faultOf i s = none) :
    (change i s).sameDefined (change i s') := by
  cases i with
  | set r x y =>
    rw [Machine.change, Machine.change, h.phys]
    exact h.setFb _ fun hp => by rw [h.fb hp]
  | clear r =>
    rw [Machine.change, Machine.change, h.phys]
    exact h.load _ _
  | ldseed p =>
    rw [Machine.change, Machine.change, h.curPhys]
    exact h.load _ _
  | step =>
    obtain ⟨hcur, -⟩ := defd_of_faultOf_step hi
    rw [Machine.change, Machine.change, h.curPhys, h.fb hcur]
    exact (h.setFb _ fun _ => rfl).markStepped
  | swap => exact h.exchange
  | sendf =>
    rw [Machine.change, Machine.change, h.curPhys, h.fb (defd_of_faultOf_sendf hi)]
    exact (h.emit _ _).markSent
  | sendc | sendinit => exact h.emit _ _
  | get | rdbytes | rdstat => exact h

theorem answerCode (h : s.sameDefined s') (i : Instr) : answerCode i s' = answerCode i s := by
  rw [answerCode_eq, answerCode_eq, h.xfer]

/-- An operation that meets no fault reads defined buffers only (R22). -/
theorem answerData (h : s.sameDefined s') {i : Instr} (hi : Machine.faultOf i s = none) :
    answerData i s' = answerData i s := by
  cases i with
  | get r x y =>
    have hp : s.defd (s.phys r) = true := by
      simp only [Machine.faultOf] at hi
      split_ifs at hi with _ hp
      exact Bool.eq_true_of_not_eq_false hp
    rw [Machine.answerData, Machine.answerData, h.phys, h.fb hp]
  | rdbytes r =>
    have hp : s.defd (s.phys r) = true := by
      simp only [Machine.faultOf] at hi
      split_ifs at hi with hp
      exact Bool.eq_true_of_not_eq_false hp
    rw [Machine.answerData, Machine.answerData, h.phys, h.fb hp]
  | rdstat sel => rw [Machine.answerData, Machine.answerData, h.control]
  | set | clear | ldseed | step | swap | sendf | sendc | sendinit => rfl

theorem exec (h : s.sameDefined s') (i : Instr) : endAlike (exec i s) (exec i s') := by
  rw [exec_eq, exec_eq, h.faulted, h.faultOf]
  split_ifs
  · exact h.respond _ _
  · cases hi : Machine.faultOf i s with
    | some code => exact (h.enterFault code _).respond _ _
    | none =>
      rw [effect, effect, h.answerCode, h.answerData hi]
      exact (h.change hi).respond _ _

/-! ### Steps -/

theorem badWord (h : s.sameDefined s') (code : FaultCode) (w : Word) :
    endAlike (badWord code w s) (badWord code w s') := by
  rw [Machine.badWord, Machine.badWord, accept, accept, h.faulted]
  split_ifs
  · exact h.respond _ _
  · exact (h.enterFault code w).respond _ _

theorem issue (h : s.sameDefined s') (c : Command) : endAlike (issue c s) (issue c s') := by
  rw [Machine.issue, Machine.issue]
  split
  · exact h.exec _
  · exact rfl
  · exact h.badWord _ _
  · exact h.badWord _ _

/-- The same frames would be cut (R251). -/
theorem framesAdded (h : s.sameDefined s') {r r' : Result} (hr : endAlike r r') : framesAdded s' r' = framesAdded s r := by
  cases r with
  | next t =>
    cases r' with
    | next t' =>
      have ht : t.sameDefined t' := hr
      rw [Machine.framesAdded, Machine.framesAdded, ht.outLog, h.outLog]
    | fault | refused => exact hr.elim
  | fault | refused =>
    cases r' with
    | next => exact hr.elim
    | fault | refused => rfl

/-- RST leaves no byte of either buffer (R38). -/
theorem restarted (h : s.sameDefined s') (rest : List Input) (received : List (List Byte)) (events : List WireEvent) :
    s'.restarted rest received events = s.restarted rest received events :=
  h.eq_of_ignores_bytes (·.restarted rest received events) fun _ _ => rfl

theorem serve (h : s.sameDefined s') (i : Input) (rest : List Input) : endAlike (serve i rest s) (serve i rest s') := by
  cases i with
  | command c => exact (h.takeCommand c rest).issue c
  | rst =>
    rw [serve_rst, serve_rst, h.restarted, h.received]
    exact .refl _
  | rstDuring c k arrived =>
    have hc := h.takeCommand c rest
    rw [Machine.serve, Machine.serve, abort_eq_restarted, abort_eq_restarted, hc.restarted, hc.received, hc.inputs,
      hc.framesAdded (hc.issue c)]
    exact .refl _

theorem step (h : s.sameDefined s') : endAlike (step s) (step s') := by
  rw [Machine.step, Machine.step, h.inputs]
  split
  · exact rfl
  · exact h.serve _ _

end State.sameDefined

/-- Settles O54: the steps of the two states end alike, by each part of a step. -/
theorem undefinedContentsUnobservable : Obligations.UndefinedContentsUnobservable := by
  intro s s' h
  have halike := h.step
  refine ⟨fun t ht => ?_, fun f hf => ?_⟩
  · rw [ht] at halike
    cases ht' : step s' with
    | next t' => exact ⟨t', rfl, by rwa [ht'] at halike⟩
    | fault | refused => rw [ht'] at halike; exact halike.elim
  · rw [hf] at halike
    cases hf' : step s' with
    | fault f' => rw [hf'] at halike; exact congrArg _ (halike : f = f').symm
    | next | refused => rw [hf'] at halike; exact halike.elim

end Sys2Proof.Machine
end
